-- ==== Sys2Proof/Word.lean ====
section
/-! DEFINITION. The two word widths of the block: the byte of every I/O access and data register, and the 16-bit
command word (00_scope R9, 30_encoding R54). -/

namespace Sys2Proof

/-- A byte, 8 bits numbered 7 down to 0 (00_scope R9). -/
abbrev Byte := BitVec 8

/-- One command word of the program store (30_encoding R54). -/
abbrev Word := BitVec 16

end Sys2Proof
end

