-- ==== Sys2Proof/Syntax.lean ====
section
/-! DEFINITION. The commands of the block as data (30_encoding R55): one constructor per row of the opcode table, with
register selectors and button indices as names, so that the machine never sees a raw operand number. -/

namespace Sys2Proof

/-- The data registers a command can name (30_encoding R58, 10_state R16 to R18, R22, R23). -/
inductive Reg where
  | kf (i : Fin 8)
  | joy
  | mx
  | my
  | mb
  | pmx
  | pmy
  | pmb
  | px
  | py
  | ppx
  | ppy
  | wpos
  | pwpos
deriving DecidableEq, Repr

/-- What the selector of `EMITH` can choose: a register, or one of the three signed views, which are not registers
(10_state R21, 30_encoding R58). -/
inductive RegSel where
  | reg (r : Reg)
  | dx
  | dy
  | dw
deriving DecidableEq, Repr

/-- The twelve commands (30_encoding R55). Every term is well formed by its types: a selector above 0x17 or a button
index above 3 (30_encoding R57) is no term of this type, and decoding refuses its word. -/
inductive Instr where
  /-- `WAIT`, op 0x01 (40_sync_channel R66). -/
  | wait
  /-- `EMITC c`, op 0x02 (40_sync_channel R67). -/
  | emitc (c : Byte)
  /-- `EMITHI b`, op 0x03 (41_hex_encoder R72). -/
  | emithi (b : Byte)
  /-- `EMITH r`, op 0x04 (41_hex_encoder R73). -/
  | emith (r : RegSel)
  /-- `KSAMP`, op 0x05 (42_keyboard R76). -/
  | ksamp
  /-- `JSAMP`, op 0x06 (43_joystick R80). -/
  | jsamp
  /-- `MSAMP`, op 0x07 (44_mouse R83). -/
  | msamp
  /-- `PSTEP`, op 0x08 (44_mouse R92). -/
  | pstep
  /-- `RENDER`, op 0x09 (45_cursor_renderer R102). -/
  | render
  /-- `PBTN k`, op 0x0A (45_cursor_renderer R109). -/
  | pbtn (k : Fin 4)
  /-- `PSCR`, op 0x0B (45_cursor_renderer R111). -/
  | pscr
  /-- `JMP t`, op 0x0C (46_sequencer_loops R116). -/
  | jmp (t : Byte)
deriving DecidableEq, Repr

end Sys2Proof
end

