-- ==== Sys2Proof/Decode.lean ====
section
/-! DEFINITION. Decoding and encoding of command words (30_encoding R54 to R58). A word is fetched whole, so it has no
byte order (20_memory R46). -/

namespace Sys2Proof

/-- Why a word is no command. The spec has one fault for all of them, `IllegalCommand(W)` (30_encoding R57); the names
are the model's (notes/assumptions/21.md). -/
inductive DecodeError where
  /-- `op` is 0x00 or 0x0D..0xFF. -/
  | reservedOpcode
  /-- `arg` is not 0x00 in a command that takes no operand. -/
  | argumentNotZero
  /-- `EMITH` with a selector in 0x18..0xFF. -/
  | reservedSelector
  /-- `PBTN` with an index in 0x04..0xFF. -/
  | reservedButton
deriving DecidableEq, Repr

/-- The field `op`, bits 15:8 (30_encoding R54). -/
def opField (w : Word) : Byte := w.extractLsb' 8 8

/-- The field `arg`, bits 7:0 (30_encoding R54). -/
def argField (w : Word) : Byte := w.extractLsb' 0 8

/-- The selector number of a register or view (30_encoding R58). -/
def RegSel.number : RegSel → Byte
  | .reg (.kf i) => BitVec.ofNat 8 i.val
  | .reg .joy => 0x08
  | .reg .mx => 0x09
  | .reg .my => 0x0A
  | .reg .mb => 0x0B
  | .reg .pmx => 0x0C
  | .reg .pmy => 0x0D
  | .reg .pmb => 0x0E
  | .dx => 0x0F
  | .dy => 0x10
  | .dw => 0x11
  | .reg .px => 0x12
  | .reg .py => 0x13
  | .reg .ppx => 0x14
  | .reg .ppy => 0x15
  | .reg .wpos => 0x16
  | .reg .pwpos => 0x17

/-- The register or view a selector number names; none for the reserved 0x18..0xFF (30_encoding R58). -/
def selectorOf (n : Byte) : Option RegSel :=
  match n.toNat with
  | 0x00 => some (.reg (.kf 0))
  | 0x01 => some (.reg (.kf 1))
  | 0x02 => some (.reg (.kf 2))
  | 0x03 => some (.reg (.kf 3))
  | 0x04 => some (.reg (.kf 4))
  | 0x05 => some (.reg (.kf 5))
  | 0x06 => some (.reg (.kf 6))
  | 0x07 => some (.reg (.kf 7))
  | 0x08 => some (.reg .joy)
  | 0x09 => some (.reg .mx)
  | 0x0A => some (.reg .my)
  | 0x0B => some (.reg .mb)
  | 0x0C => some (.reg .pmx)
  | 0x0D => some (.reg .pmy)
  | 0x0E => some (.reg .pmb)
  | 0x0F => some .dx
  | 0x10 => some .dy
  | 0x11 => some .dw
  | 0x12 => some (.reg .px)
  | 0x13 => some (.reg .py)
  | 0x14 => some (.reg .ppx)
  | 0x15 => some (.reg .ppy)
  | 0x16 => some (.reg .wpos)
  | 0x17 => some (.reg .pwpos)
  | _ => none

/-- A command without operand: its `arg` must be 0x00 (30_encoding R56). -/
def noOperand (i : Instr) (arg : Byte) : Except DecodeError Instr :=
  if arg = 0 then .ok i else .error .argumentNotZero

/-- `EMITH` of a selector number (30_encoding R57, R58). -/
def decodeEmith (arg : Byte) : Except DecodeError Instr :=
  match selectorOf arg with
  | some r => .ok (.emith r)
  | none => .error .reservedSelector

/-- `PBTN` of a button index, legal for 0 to 3 (30_encoding R56, R57). -/
def decodePbtn (arg : Byte) : Except DecodeError Instr :=
  if h : arg.toNat < 4 then .ok (.pbtn ⟨arg.toNat, h⟩) else .error .reservedButton

/-- The command a word encodes (30_encoding R55 to R57). -/
def decode (w : Word) : Except DecodeError Instr :=
  match (opField w).toNat with
  | 0x01 => noOperand .wait (argField w)
  | 0x02 => .ok (.emitc (argField w))
  | 0x03 => .ok (.emithi (argField w))
  | 0x04 => decodeEmith (argField w)
  | 0x05 => noOperand .ksamp (argField w)
  | 0x06 => noOperand .jsamp (argField w)
  | 0x07 => noOperand .msamp (argField w)
  | 0x08 => noOperand .pstep (argField w)
  | 0x09 => noOperand .render (argField w)
  | 0x0A => decodePbtn (argField w)
  | 0x0B => noOperand .pscr (argField w)
  | 0x0C => .ok (.jmp (argField w))
  | _ => .error .reservedOpcode

/-- The opcode of a command (30_encoding R55). -/
def Instr.op : Instr → Byte
  | .wait => 0x01
  | .emitc _ => 0x02
  | .emithi _ => 0x03
  | .emith _ => 0x04
  | .ksamp => 0x05
  | .jsamp => 0x06
  | .msamp => 0x07
  | .pstep => 0x08
  | .render => 0x09
  | .pbtn _ => 0x0A
  | .pscr => 0x0B
  | .jmp _ => 0x0C

/-- The argument of a command; 0x00 where it takes no operand (30_encoding R55, R56). -/
def Instr.arg : Instr → Byte
  | .wait => 0
  | .emitc c => c
  | .emithi b => b
  | .emith r => r.number
  | .ksamp => 0
  | .jsamp => 0
  | .msamp => 0
  | .pstep => 0
  | .render => 0
  | .pbtn k => BitVec.ofNat 8 k.val
  | .pscr => 0
  | .jmp t => t

/-- The word of a command: `op` in bits 15:8, `arg` in bits 7:0 (30_encoding R54). -/
def encode (i : Instr) : Word := i.op ++ i.arg

/-- The instruction the decoder reads from an opcode-table row's bits: the first `nbits` bits of `w`, every higher bit
0, taken as one command word (a command is always one word, 30_encoding R54). -/
def decodeTableWord (nbits w : Nat) : Option Instr :=
  (decode (BitVec.ofNat 16 (w % 2 ^ nbits))).toOption

end Sys2Proof
end

