-- ==== Sys2Proof/Machine/Fixed.lean ====
section
/-! DEFINITION. The FIXED and DECIDED parameters of 00_scope R7: values the spec gives. -/

namespace Sys2Proof.Machine

/-- `ACK`, the acknowledgement byte. -/
def ackByte : Byte := 1

/-- `KB_MASK`. -/
def kbMask : Byte := 0xE0

/-- `Y_FLIP`. -/
def yFlip : Byte := 255

/-- `Y_MAX`: above it the cursor y resets. -/
def yMax : Int := 191

/-- `Y_TOP_RESET`: the value taken when y is above `Y_MAX`. -/
def yTopReset : Int := 1

/-- `Y_BOTTOM_RESET`: the value taken when y is below 0. -/
def yBottomReset : Int := 192

/-- `W_MIN`. -/
def wMin : Int := 0

/-- `W_MAX`. -/
def wMax : Int := 191

/-- `SCREEN_W`: the window of the pixel plane the host reads (92_eei_decisions D13). -/
def screenW : Int := 256

/-- `SCREEN_H`. -/
def screenH : Int := 192

/-- `XWRAP` (44_mouse R93, 92_eei_decisions D14): the decided function, `v mod 256`. -/
def xwrap (v : Int) : Int := v % 256

end Sys2Proof.Machine
end

