-- ==== Sys2Proof/Config.lean ====
section
/-! DEFINITION. The parameters of the block as one configuration record (00_scope R7), the values the model gives the
OPEN ones in its reset state, and the one free value of the spec (20_memory R44). -/

namespace Sys2Proof

/-- The OPEN parameters of 00_scope R7. Addresses are numbers below `2 ^ addrW`, which `Config.wf` checks. The program
store is `prog` and `PROGLEN` is its length. -/
structure Config where
  /-- `ADDR_W`, the width of an I/O address in bits. -/
  addrW : Nat
  /-- `CH_ADDR`, the address of the channel register pair. -/
  chAddr : Nat
  /-- `KB_SEL[0..7]`, the keyboard selector addresses. -/
  kbSel : Vector Nat 8
  /-- `JOY_ADDR`. -/
  joyAddr : Nat
  /-- `MOUSE_SEL_ADDR`, where the mouse selector is written. -/
  mouseSelAddr : Nat
  /-- `MOUSE_DATA_ADDR`, where the selected mouse register is read. -/
  mouseDataAddr : Nat
  /-- `MSEL_X`. -/
  mselX : Byte
  /-- `MSEL_Y`. -/
  mselY : Byte
  /-- `MSEL_B`. -/
  mselB : Byte
  /-- `SPRITE[0..7]`, one byte per row (10_state R24). -/
  sprite : Vector Byte 8
  /-- `PX_RESET`. -/
  pxReset : Byte
  /-- `PY_RESET`. -/
  pyReset : Byte
  /-- `WPOS_RESET`. -/
  wposReset : Byte
  /-- `PROG`, the read-only program store (20_memory R36). -/
  prog : List Word
  /-- `KB_SEP`, the separator of the keyboard loop (46_sequencer_loops R120). -/
  kbSep : List Byte
  /-- `JOY_SEP`, the separator of the joystick loop (46_sequencer_loops R121). -/
  joySep : List Byte
deriving DecidableEq, Repr

/-- `PROGLEN` (00_scope R7). -/
abbrev Config.progLen (c : Config) : Nat := c.prog.length

/-- The configuration of `State.reset`. DESIGN CHOICE, unsafe (notes/assumptions/2.md, 3.md, 4.md): the spec leaves
every one of these values OPEN. The addresses and mouse selectors are those of the test configuration TC1 of
95_test_vectors, the rest is zero or empty. No statement rests on it. -/
def Config.default : Config where
  addrW := 16
  chAddr := 0x0100
  kbSel := #v[0x0200, 0x0201, 0x0202, 0x0203, 0x0204, 0x0205, 0x0206, 0x0207]
  joyAddr := 0x0300
  mouseSelAddr := 0x0400
  mouseDataAddr := 0x0401
  mselX := 0
  mselY := 1
  mselB := 2
  sprite := #v[0, 0, 0, 0, 0, 0, 0, 0]
  pxReset := 0
  pyReset := 0
  wposReset := 0
  prog := []
  kbSep := []
  joySep := []

/-- The free draw of 20_memory R44: what the `n`-th read of the mouse data register returns when no valid selector is
latched. It has no body, so nothing can be proved of its values (notes/assumptions/9.md). -/
opaque Config.freeByte : Nat → Byte

end Sys2Proof
end

