-- ==== Sys2Proof/WellFormed.lean ====
section
/-! DEFINITION. The constraints on the configuration (00_scope R7, R8; 93_implementation_defined U16). A configuration
that breaks one is refused. Commands need no check of their own: their types allow only legal operands. -/

namespace Sys2Proof

/-- `ADDR_W` is positive (00_scope R7). -/
def Config.widthOk (c : Config) : Bool := decide (0 < c.addrW)

/-- All addresses a command accesses but `MOUSE_DATA_ADDR`. -/
def Config.mainAddrs (c : Config) : List Nat :=
  c.chAddr :: c.joyAddr :: c.mouseSelAddr :: c.kbSel.toList

/-- Every address has `ADDR_W` bits (00_scope R7). -/
def Config.addrsFit (c : Config) : Bool :=
  (c.mouseDataAddr :: c.mainAddrs).all fun a => decide (a < 2 ^ c.addrW)

/-- The addresses are pairwise distinct, except that `MOUSE_SEL_ADDR` may equal `MOUSE_DATA_ADDR` (00_scope R8). -/
def Config.addrsDistinct (c : Config) : Bool :=
  decide c.mainAddrs.Nodup
    && decide (c.mouseDataAddr ∉ c.chAddr :: c.joyAddr :: c.kbSel.toList)

/-- The three mouse selectors are pairwise distinct (00_scope R7). -/
def Config.selectorsDistinct (c : Config) : Bool :=
  decide (c.mselX ≠ c.mselY) && decide (c.mselX ≠ c.mselB) && decide (c.mselY ≠ c.mselB)

/-- `0 <= PY_RESET <= 191` and `0 <= WPOS_RESET <= 191` (00_scope R7); `PX_RESET` may be any byte. -/
def Config.resetsInRange (c : Config) : Bool :=
  decide (c.pyReset.toNat ≤ 191) && decide (c.wposReset.toNat ≤ 191)

/-- `PROGLEN <= 256` (00_scope R7, 30_encoding R56). -/
def Config.progFits (c : Config) : Bool := decide (c.progLen ≤ 256)

/-- The well-formedness check of a configuration (00_scope R8). -/
def Config.wf (c : Config) : Bool :=
  c.widthOk && c.addrsFit && c.addrsDistinct && c.selectorsDistinct && c.resetsInRange && c.progFits

end Sys2Proof
end

