-- ==== Sys2Proof/Machine/State.lean ====
section
/-! DEFINITION. The state of the block, of its environment and of the histories (10_state), the reasons a step can stop,
and the state right after reset (10_state R33, 70_reset_and_hazards R141). -/

namespace Sys2Proof.Machine

/-! ### The spec's own faults and the run status -/

/-- The closed list of fault reasons with the info each records (60_exceptions R131). Raising one is a NEXT state of
the machine (`raise` in Machine/Ops.lean), not a fault of the model. -/
inductive FaultReason where
  /-- The word at `pc` is no command (60_exceptions R135). -/
  | illegalCommand (w : Word)
  /-- A command used a register that holds no value (60_exceptions R132). -/
  | unwrittenRegister (r : Reg)
  /-- `JMP` to a target at or above `PROGLEN` (60_exceptions R134). -/
  | badTarget (t : Byte)
  /-- An access to an address that is none of the configured ones (60_exceptions R133). -/
  | unmappedAccess (a : Nat)
deriving DecidableEq, Repr

/-- The run status `RUN` (10_state R26). -/
inductive RunStatus where
  | running
  | done
  | faulted (r : FaultReason)
deriving DecidableEq, Repr

/-! ### The screen -/

/-- A pixel coordinate: any pair of integers (10_state R25). -/
structure Pixel where
  x : Int
  y : Int
deriving DecidableEq, Repr

/-- Row-major order: top row first, left to right. -/
def Pixel.before (a b : Pixel) : Bool := decide (a.y < b.y) || (decide (a.y = b.y) && decide (a.x < b.x))

/-- The pixel plane `PIX`, the set of lit pixels (10_state R25), as the list of its members. -/
abbrev PixelPlane := List Pixel

/-- The canonical form: pixels strictly rising in row-major order. Equal sets are then equal lists. -/
abbrev PixelPlane.wf (p : PixelPlane) : Prop := p.Pairwise fun a b => a.before b = true

/-! ### Events and host steps -/

/-- The four drawing primitives of the model (10_state R25). -/
inductive DrawCall where
  | setPixel (c : Pixel)
  | clearPixel (c : Pixel)
  | buttonBox (k : Fin 4) (pressed : Bool)
  | scrollBox (a b : Int)
deriving DecidableEq, Repr

/-- One change the host makes to a device register (20_memory R41). -/
inductive DevChange where
  | kb (i : Fin 8) (v : Byte)
  | joy (v : Byte)
  | mx (v : Byte)
  | my (v : Byte)
  | mb (v : Byte)
deriving DecidableEq, Repr

/-- The events of the history `EV` (10_state R27). -/
inductive Event where
  | release (v : Byte)
  | ack (b : Byte)
  | data (b : Byte)
  | devRd (a : Nat) (v : Byte)
  | devWr (a : Nat) (v : Byte)
  /-- The changes of one `host_dev` step, in order (the spec leaves the content open: notes/assumptions/17.md). -/
  | hostDev (cs : List DevChange)
  | draw (d : DrawCall)
deriving DecidableEq, Repr

/-- The three kinds of host step (20_memory R41). `release 0` is outside the host's contract and is refused when it is
reached. -/
inductive HostStep where
  | release (v : Byte)
  | dev (cs : List DevChange)
  | observe
deriving DecidableEq, Repr

/-! ### The state -/

/-- Everything the spec gives the machine and its environment (10_state R14 to R30). `none` in a register is the spec's
own "no value" (10_state R34). -/
structure State where
  /-- The parameters (00_scope R7). No step changes them (10_state R31). -/
  cfg : Config
  /-- `REL`, the release register (10_state R15). -/
  rel : Byte
  /-- `TX`, the transmit register (10_state R15). -/
  tx : Option Byte
  /-- `KF[0..7]`, the keyboard frame (10_state R16). -/
  kf : Vector (Option Byte) 8
  /-- `JOY` (10_state R17). -/
  joy : Option Byte
  /-- `MX`, current x (10_state R18). -/
  mx : Option Byte
  /-- `MY`, current y, already converted (10_state R18, R19). -/
  my : Option Byte
  /-- `MB`, current status byte (10_state R18, R20). -/
  mb : Option Byte
  /-- `PMX`, previous x (10_state R18). -/
  pmx : Option Byte
  /-- `PMY`, previous y (10_state R18). -/
  pmy : Option Byte
  /-- `PMB`, previous status byte (10_state R18). -/
  pmb : Option Byte
  /-- `PX` (10_state R22). It holds a value from reset on. -/
  px : Byte
  /-- `PY` (10_state R22). It holds a value from reset on. -/
  py : Byte
  /-- `PPX` (10_state R22). -/
  ppx : Option Byte
  /-- `PPY` (10_state R22). -/
  ppy : Option Byte
  /-- `WPOS` (10_state R23). It holds a value from reset on. -/
  wpos : Byte
  /-- `PWPOS` (10_state R23). -/
  pwpos : Option Byte
  /-- `pc`, the index of the current command (10_state R26). -/
  pc : Nat
  /-- `RUN` (10_state R26). -/
  run : RunStatus
  /-- `PIX` (10_state R25). -/
  pix : PixelPlane
  /-- `BTNBOX[0..3]` (10_state R25). -/
  btnBox : Vector (Option Bool) 4
  /-- `SCROLLBOX` (10_state R25). -/
  scrollBox : Option Int
  /-- `OUT`, oldest first (10_state R27). -/
  out : List Byte
  /-- `EV`, oldest first (10_state R27). -/
  ev : List Event
  /-- `DEV.KB[0..7]` (10_state R29). -/
  devKb : Vector Byte 8
  /-- `DEV.JOY` (10_state R29). -/
  devJoy : Byte
  /-- `DEV.MX` (10_state R29). -/
  devMx : Byte
  /-- `DEV.MY` (10_state R29). -/
  devMy : Byte
  /-- `DEV.MB` (10_state R29). -/
  devMb : Byte
  /-- `DEV.MSEL`, the mouse selector latch (10_state R29). -/
  devMsel : Option Byte
  /-- The MODEL's own: the host steps still to come, a test input of the spec (10_state R31, notes/assumptions/8.md). -/
  script : List HostStep
  /-- The MODEL's own: how many free draws were made (20_memory R44, notes/assumptions/9.md). -/
  draws : Nat
deriving DecidableEq, Repr

/-- Why the machine has no next state. None of these is a fault of the spec; those are next states (60_exceptions
R131). -/
inductive Fault where
  /-- The guest is at a `WAIT` with `REL = 0` and has no step (40_sync_channel R66, R69). Raised by the meaning of
  `WAIT`, and by a step of a held guest when the host's script is exhausted: the end of the observation
  (46_sequencer_loops R117). Safe. -/
  | held
  /-- `RUN` is `Done`: the end of the run, no agent steps (46_sequencer_loops R117). Raised by a step. Safe. -/
  | ended
  /-- `RUN` is `Faulted`: quiescent until reset (60_exceptions R131). Raised by a step. Safe. -/
  | faulted (r : FaultReason)
  /-- `pc` is above `PROGLEN`, which no run reaches (10_state R35). Raised by a step. Safe. -/
  | pcOutside (pc : Nat)
deriving DecidableEq, Repr

/-- What the model gives no meaning. -/
inductive Refusal where
  /-- An instruction without a meaning yet; only `exec`'s arms answer with it. Safe. -/
  | notModelled (mnemonic : String)
  /-- The configuration breaks 00_scope R8 and "is refused, not given a meaning". Raised by a step. Safe. -/
  | illFormedConfig
  /-- The host's script asks for a release with 0, a step the host does not have (20_memory R41,
  93_implementation_defined U1). Raised by a step. Safe. -/
  | hostReleasesZero
deriving DecidableEq, Repr

/-! ### Reset -/

/-- Reset under the configuration `c` (10_state R33, 70_reset_and_hazards R141). What the spec leaves unspecified is an
argument: the device registers `kb joy mx my mb` and the pixel plane `p`, with the host's script. -/
def State.resetWith (c : Config) (kb : Vector Byte 8) (joy mx my mb : Byte) (p : PixelPlane)
    (script : List HostStep) : State where
  cfg := c
  rel := 0
  tx := none
  kf := #v[none, none, none, none, none, none, none, none]
  joy := none
  mx := none
  my := none
  mb := none
  pmx := none
  pmy := none
  pmb := none
  px := c.pxReset
  py := c.pyReset
  ppx := none
  ppy := none
  wpos := c.wposReset
  pwpos := none
  pc := 0
  run := .running
  pix := p
  btnBox := #v[none, none, none, none]
  scrollBox := none
  out := []
  ev := []
  devKb := kb
  devJoy := joy
  devMx := mx
  devMy := my
  devMb := mb
  devMsel := none
  script := script
  draws := 0

/-- The machine right after reset. The spec leaves the parameters, the device registers and the pixel plane open: here
they take the values of notes/assumptions/2.md to 6.md and 8.md (DESIGN CHOICE, unsafe). -/
def State.reset : State :=
  State.resetWith Config.default #v[0, 0, 0, 0, 0, 0, 0, 0] 0 0 0 0 [] []

end Sys2Proof.Machine
end

