-- ==== Sys2Proof/Machine/Ops.lean ====
section
/-! DEFINITION. The shared operations: fault entry, completion of a command, events, the I/O space with the channel
register pair and the devices (20_memory), the drawing primitives (10_state R25), signed arithmetic (00_scope R10). -/

namespace Sys2Proof.Machine

/-! ### Fault entry, and the end of a command -/

/-- Fault entry (60_exceptions R131): `RUN` becomes `Faulted`, nothing else changes; `pc` keeps the index of the
faulting command. There is no return: "nothing is restored and nothing nests" (60_exceptions R136). -/
def raise (f : FaultReason) (s : State) : State := { s with run := .faulted f }

/-- How a command ends: with its effect, or with a fault raised at the state before the command, so that a faulting
command has had no effect (60_exceptions R131). -/
def complete (s : State) (effect : Except FaultReason State) : Host.Outcome State Fault Refusal :=
  match effect with
  | .ok t => .next t
  | .error f => .next (raise f s)

/-- `pc <- pc + 1` (46_sequencer_loops R115). -/
def advance (s : State) : State := { s with pc := s.pc + 1 }

/-- `emit_event(e)` (00_scope R11). -/
def emitEvent (e : Event) (s : State) : State := { s with ev := s.ev ++ [e] }

/-! ### The I/O space -/

/-- The rows of the keyboard frame in their fixed order (42_keyboard R76). -/
def rowOrder : List (Fin 8) := [0, 1, 2, 3, 4, 5, 6, 7]

/-- The keyboard row whose selector address is `a` (20_memory R37). -/
def keyboardRow (c : Config) (a : Nat) : Option (Fin 8) := rowOrder.find? fun i => c.kbSel[i] == a

/-- `mouse_data()` (20_memory R44): the register the latched selector chooses, or a free draw. -/
def mouseData (s : State) : Byte × State :=
  if s.devMsel = some s.cfg.mselX then (s.devMx, s)
  else if s.devMsel = some s.cfg.mselY then (s.devMy, s)
  else if s.devMsel = some s.cfg.mselB then (s.devMb, s)
  else (Config.freeByte s.draws, { s with draws := s.draws + 1 })

/-- A read of a device address appends `DevRd(a, v)` (20_memory R37). -/
def deviceRead (a : Nat) (v : Byte) (s : State) : Except FaultReason (Byte × State) :=
  .ok (v, emitEvent (.devRd a v) s)

/-- A guest read `MemRead(a, 1)` (20_memory R37, R39, R42 to R45). -/
def ioRead (a : Nat) (s : State) : Except FaultReason (Byte × State) :=
  if a = s.cfg.chAddr then .ok (s.rel, s)
  else match keyboardRow s.cfg a with
    | some i => deviceRead a s.devKb[i] s
    | none =>
      if a = s.cfg.joyAddr then deviceRead a s.devJoy s
      else if a = s.cfg.mouseDataAddr then deviceRead a (mouseData s).1 (mouseData s).2
      else .error (.unmappedAccess a)

/-- `channel_write(b)` (20_memory R40): the acknowledgement of a pending release, or a data transmission. -/
def channelWrite (b : Byte) (s : State) : State :=
  if s.rel ≠ 0 then emitEvent (.ack b) { s with tx := some b, rel := 0 }
  else emitEvent (.data b) { s with tx := some b, out := s.out ++ [b] }

/-- A guest write `MemWrite(a, 1, v)` (20_memory R38). -/
def ioWrite (a : Nat) (v : Byte) (s : State) : Except FaultReason State :=
  if a = s.cfg.chAddr then .ok (channelWrite v s)
  else if a = s.cfg.mouseSelAddr then .ok (emitEvent (.devWr a v) { s with devMsel := some v })
  else .error (.unmappedAccess a)

/-! ### The drawing primitives -/

/-- Is the pixel lit? The model's read of the pixel plane. -/
def pixLit (p : PixelPlane) (c : Pixel) : Bool := p.contains c

/-- `PIX ∪ {c}`, keeping the canonical form. -/
def pixInsert (c : Pixel) : PixelPlane → PixelPlane
  | [] => [c]
  | d :: p =>
    if c = d then d :: p
    else if c.before d then c :: d :: p
    else d :: pixInsert c p

/-- `PIX \ {c}`, keeping the canonical form. -/
def pixErase (c : Pixel) (p : PixelPlane) : PixelPlane := p.filter fun d => d != c

/-- `SetPixel(x, y)` (10_state R25). -/
def setPixel (c : Pixel) (s : State) : State :=
  emitEvent (.draw (.setPixel c)) { s with pix := pixInsert c s.pix }

/-- `ClearPixel(x, y)` (10_state R25). -/
def clearPixel (c : Pixel) (s : State) : State :=
  emitEvent (.draw (.clearPixel c)) { s with pix := pixErase c s.pix }

/-- `ButtonBox(k, p)` (10_state R25). -/
def buttonBox (k : Fin 4) (pressed : Bool) (s : State) : State :=
  emitEvent (.draw (.buttonBox k pressed)) { s with btnBox := s.btnBox.set k (some pressed) }

/-- `ScrollBox(a, b)` (10_state R25). -/
def scrollBox (a b : Int) (s : State) : State :=
  emitEvent (.draw (.scrollBox a b)) { s with scrollBox := some b }

/-! ### Signed arithmetic -/

/-- `sub8(a, b) = (a - b) mod 256` (00_scope R10). -/
def sub8 (a b : Byte) : Byte := BitVec.ofInt 8 (((a.toNat : Int) - (b.toNat : Int)) % 256)

/-- `sint8(v)`: `v` when it is at most 127, else `v - 256` (00_scope R10). -/
def sint8 (v : Byte) : Int := if v.toNat ≤ 127 then (v.toNat : Int) else (v.toNat : Int) - 256

end Sys2Proof.Machine
end

