-- ==== Sys2Proof/Machine/Control.lean ====
section
/-! DEFINITION. Control: `JMP` (46_sequencer_loops R116). -/

namespace Sys2Proof.Machine

/-- `JMP t` (46_sequencer_loops R116): `BadTarget(t)` when `t >= PROGLEN`, else `pc <- t`. -/
def execJmp (t : Byte) (s : State) : Host.Outcome State Fault Refusal :=
  complete s (if t.toNat < s.cfg.progLen then .ok { s with pc := t.toNat } else .error (.badTarget t))

end Sys2Proof.Machine
end

