-- ==== Sys2Proof/Machine/Operands.lean ====
section
/-! DEFINITION. Operands: the registers, the derived views `DX`, `DY`, `DW` (44_mouse R86 to R89) and the register
selector read `x[r]` (30_encoding R58). -/

namespace Sys2Proof.Machine

/-- What a register holds: a byte or no value (10_state R34). -/
def regHolds (s : State) : Reg → Option Byte
  | .kf i => s.kf[i]
  | .joy => s.joy
  | .mx => s.mx
  | .my => s.my
  | .mb => s.mb
  | .pmx => s.pmx
  | .pmy => s.pmy
  | .pmb => s.pmb
  | .px => some s.px
  | .py => some s.py
  | .ppx => s.ppx
  | .ppy => s.ppy
  | .wpos => some s.wpos
  | .pwpos => s.pwpos

/-- The use of a register as a value: a register that holds none raises `UnwrittenRegister(name)` (60_exceptions
R132). -/
def useReg (s : State) (r : Reg) : Except FaultReason Byte :=
  match regHolds s r with
  | some v => .ok v
  | none => .error (.unwrittenRegister r)

/-- The signed 8-bit difference of current minus previous, with wraparound (44_mouse R86). -/
def signedDelta (current previous : Byte) : Int := sint8 (sub8 current previous)

/-- `wheelDiff` of two status bytes (44_mouse R88): the high nibbles in place, the exact division by 16. -/
def wheelDelta (current previous : Byte) : Int := sint8 (sub8 (current &&& 0xF0) (previous &&& 0xF0)) / 16

/-- `xDiff`, the view `DX` (44_mouse R86). `MX` is read before `PMX` (60_exceptions R130, notes/assumptions/15.md). -/
def xDiff (s : State) : Except FaultReason Int := do
  let c ← useReg s .mx
  let p ← useReg s .pmx
  return signedDelta c p

/-- `yDiff`, the view `DY`, on the converted values (44_mouse R87). -/
def yDiff (s : State) : Except FaultReason Int := do
  let c ← useReg s .my
  let p ← useReg s .pmy
  return signedDelta c p

/-- `wheelDiff`, the view `DW` (44_mouse R88). -/
def wheelDiff (s : State) : Except FaultReason Int := do
  let c ← useReg s .mb
  let p ← useReg s .pmb
  return wheelDelta c p

/-- The two's-complement byte of a signed value (10_state R21). -/
def byteOfInt (v : Int) : Byte := BitVec.ofInt 8 (v % 256)

/-- The read `x[r]` (30_encoding R58). -/
def readSelector (s : State) : RegSel → Except FaultReason Byte
  | .reg r => useReg s r
  | .dx => do return byteOfInt (← xDiff s)
  | .dy => do return byteOfInt (← yDiff s)
  | .dw => do return byteOfInt (← wheelDiff s)

end Sys2Proof.Machine
end

