-- ==== Sys2Proof/Machine/Flags.lean ====
section
/-! DEFINITION. Flags. The block has no condition codes (10_state R28); its only Boolean status is the four button flags
of the status byte (10_state R20, 44_mouse R90). -/

namespace Sys2Proof.Machine

/-- Bit `k` of a status byte: 0 left, 1 right, 2 middle, 3 extra (44_mouse R90). -/
def buttonFlag (status : Byte) (k : Fin 4) : Bool := status.getLsbD k.val

/-- The wheel counter of a status byte, bits 7:4 (10_state R20). -/
def wheelCounter (status : Byte) : BitVec 4 := status.extractLsb' 4 4

/-- The button query `BTN(k)` (44_mouse R90): it reads `MB` only. -/
def button (s : State) (k : Fin 4) : Except FaultReason Bool := do
  let b ← useReg s .mb
  return buttonFlag b k

end Sys2Proof.Machine
end

