-- ==== Sys2Proof/Machine/Cursor.lean ====
section
/-! DEFINITION. The CursorRenderer family: `RENDER`, `PBTN` and `PSCR` (45_cursor_renderer). -/

namespace Sys2Proof.Machine

/-- Column `i` of row `j` of the sprite: bit `7 - i` of the row byte (30_encoding R63). -/
def spriteBit (c : Config) (i j : Nat) : Bool := (c.sprite.toList.getD j 0).getLsbD (7 - i)

/-- The position of an anchor given by two position registers (45_cursor_renderer R100). -/
def anchor (x y : Byte) : Pixel := ⟨x.toNat, y.toNat⟩

/-- `member(A, c)` (45_cursor_renderer R101): the bounds check, then the sprite-row lookup. -/
def member (cfg : Config) (a c : Pixel) : Bool :=
  let i := c.x - a.x
  let j := c.y - a.y
  if i < 0 || i > 7 || j < 0 || j > 7 then false else spriteBit cfg i.toNat j.toNat

/-- The 64 cells of the footprint anchored at `a`, row by row from the top-left cell (45_cursor_renderer R100,
R103). -/
def footprint (a : Pixel) : List Pixel :=
  (List.range 8).flatMap fun (j : Nat) => (List.range 8).map fun (i : Nat) => ⟨a.x + i, a.y + j⟩

/-- The cells pass 1 clears: in the previous shape and not in the new one (45_cursor_renderer R102). -/
def clearedCells (cfg : Config) (p n : Pixel) : List Pixel :=
  (footprint p).filter fun c => member cfg p c && !member cfg n c

/-- The cells pass 2 sets: the new shape (45_cursor_renderer R102). -/
def setCells (cfg : Config) (n : Pixel) : List Pixel := (footprint n).filter fun c => member cfg n c

/-- The two passes of the blitter, the clearing pass first (45_cursor_renderer R102, R103). -/
def blit (p n : Pixel) (s : State) : State :=
  (setCells s.cfg n).foldl (fun t c => setPixel c t)
    ((clearedCells s.cfg p n).foldl (fun t c => clearPixel c t) s)

/-- `RENDER` (45_cursor_renderer R102): `newPos` is `(PX, PY)` and `prevPos` is `(PPX, PPY)`, which must hold values. No
coordinate is range-checked (R107). -/
def execRender (s : State) : Host.Outcome State Fault Refusal :=
  complete s do
    let nx ← useReg s .px
    let ny ← useReg s .py
    let ox ← useReg s .ppx
    let oy ← useReg s .ppy
    return advance (blit (anchor ox oy) (anchor nx ny) s)

/-- `PBTN k` (45_cursor_renderer R109): paint button box `k` with the current button query. -/
def execPbtn (k : Fin 4) (s : State) : Host.Outcome State Fault Refusal :=
  complete s do
    let p ← button s k
    return advance (buttonBox k p s)

/-- `PSCR` (45_cursor_renderer R111): previous wheel position first, new second. -/
def execPscr (s : State) : Host.Outcome State Fault Refusal :=
  complete s do
    let a ← useReg s .pwpos
    let b ← useReg s .wpos
    return advance (scrollBox a.toNat b.toNat s)

end Sys2Proof.Machine
end

