-- ==== Sys2Proof/Machine/HexEncoder.lean ====
section
/-! DEFINITION. The HexByteEncoder family: `EMITHI` and `EMITH` (41_hex_encoder). -/

namespace Sys2Proof.Machine

/-- The character of a nibble: the alphabet 0123456789ABCDEF as ASCII bytes (30_encoding R59). -/
def hexChar (n : BitVec 4) : Byte := if n.toNat ≤ 9 then BitVec.ofNat 8 (0x30 + n.toNat) else BitVec.ofNat 8 (0x37 + n.toNat)

/-- `b >> 4` as a nibble (41_hex_encoder R71). -/
def highNibble (b : Byte) : BitVec 4 := b.extractLsb' 4 4

/-- `b & 0xF` as a nibble (41_hex_encoder R71). -/
def lowNibble (b : Byte) : BitVec 4 := b.extractLsb' 0 4

/-- `hex2(b)`, high digit first (41_hex_encoder R71). -/
def hex2 (b : Byte) : List Byte := [hexChar (highNibble b), hexChar (lowNibble b)]

/-- The host's decoding of one character of the alphabet (41_hex_encoder R75). -/
def unhex (c : Byte) : Nat := if c.toNat ≤ 0x39 then c.toNat - 0x30 else c.toNat - 0x37

/-- The two channel writes of `emit(byte)`, high digit first, then `pc + 1` (41_hex_encoder R72). -/
def transmitHex (b : Byte) (s : State) : Except FaultReason State := do
  let t ← ioWrite s.cfg.chAddr (hexChar (highNibble b)) s
  let u ← ioWrite t.cfg.chAddr (hexChar (lowNibble b)) t
  return advance u

/-- `EMITHI b` (41_hex_encoder R72). -/
def execEmithi (b : Byte) (s : State) : Host.Outcome State Fault Refusal := complete s (transmitHex b s)

/-- `EMITH r` (41_hex_encoder R73): the operand is read, and may raise `UnwrittenRegister`, before any write. -/
def execEmith (r : RegSel) (s : State) : Host.Outcome State Fault Refusal :=
  complete s do
    let b ← readSelector s r
    transmitHex b s

end Sys2Proof.Machine
end

