-- ==== Sys2Proof/Machine/Joystick.lean ====
section
/-! DEFINITION. The JoystickSampler family: `JSAMP` (43_joystick). -/

namespace Sys2Proof.Machine

/-- `JSAMP` (43_joystick R80): one read, stored unmodified; no bit is given a meaning (43_joystick R81). -/
def execJsamp (s : State) : Host.Outcome State Fault Refusal :=
  complete s do
    let (v, t) ← ioRead s.cfg.joyAddr s
    return advance { t with joy := some v }

end Sys2Proof.Machine
end

