-- ==== Sys2Proof/Machine/Keyboard.lean ====
section
/-! DEFINITION. The KeyboardMatrixSampler family: `KSAMP` (42_keyboard). -/

namespace Sys2Proof.Machine

/-- The correction of a raw half-row byte (42_keyboard R77). -/
def maskRow (raw : Byte) : Byte := raw ||| kbMask

/-- One half-row: a read of its selector address, masked into the frame (42_keyboard R76). -/
def sampleRow (s : State) (i : Fin 8) : Except FaultReason State := do
  let (raw, t) ← ioRead s.cfg.kbSel[i] s
  return { t with kf := t.kf.set i (some (maskRow raw)) }

/-- `KSAMP` (42_keyboard R76): exactly eight reads, index 0 to 7. -/
def execKsamp (s : State) : Host.Outcome State Fault Refusal :=
  complete s do
    let t ← rowOrder.foldlM sampleRow s
    return advance t

end Sys2Proof.Machine
end

