-- ==== Sys2Proof/Machine/Mouse.lean ====
section
/-! DEFINITION. The MouseSampler family: `MSAMP` and `PSTEP` (44_mouse). -/

namespace Sys2Proof.Machine

/-- The y conversion, `255 - raw`, made once, at sample time (10_state R19, 44_mouse R84). -/
def flipY (raw : Byte) : Byte := BitVec.ofNat 8 (yFlip.toNat - raw.toNat)

/-- A selector write followed by a read of the shared data address (20_memory R44). -/
def mouseRegister (selector : Byte) (s : State) : Except FaultReason (Byte × State) := do
  let t ← ioWrite s.cfg.mouseSelAddr selector s
  ioRead t.cfg.mouseDataAddr t

/-- `MSAMP` (44_mouse R83): the current snapshot becomes the previous one, "no value" included; then X, Y and status are
selected and read, y converted. -/
def execMsamp (s : State) : Host.Outcome State Fault Refusal :=
  complete s do
    let s1 := { s with pmx := s.mx, pmy := s.my, pmb := s.mb }
    let (x, s2) ← mouseRegister s1.cfg.mselX s1
    let s3 := { s2 with mx := some x }
    let (raw, s4) ← mouseRegister s3.cfg.mselY s3
    let s5 := { s4 with my := some (flipY raw) }
    let (b, s6) ← mouseRegister s5.cfg.mselB s5
    return advance { s6 with mb := some b }

/-- The vertical wrap, on the integer `y1 = PY + dy` (44_mouse R94, R95); asymmetric as written (R96). -/
def wrapY (y1 : Int) : Int := if y1 > yMax then yTopReset else if y1 < 0 then yBottomReset else y1

/-- The wheel clamp (44_mouse R97). -/
def clampWheel (w1 : Int) : Int := if w1 < wMin then wMin else if w1 > wMax then wMax else w1

/-- The update of the positions by the three deltas, the old ones remembered (44_mouse R92, R93). -/
def movePositions (dx dy dw : Int) (s : State) : State :=
  { s with
    ppx := some s.px
    ppy := some s.py
    pwpos := some s.wpos
    px := BitVec.ofInt 8 (xwrap (s.px.toNat + dx))
    py := BitVec.ofInt 8 (wrapY (s.py.toNat + dy))
    wpos := BitVec.ofInt 8 (clampWheel (s.wpos.toNat + dw)) }

/-- `PSTEP` (44_mouse R92): the deltas are computed first and may raise `UnwrittenRegister`, before any write. -/
def execPstep (s : State) : Host.Outcome State Fault Refusal :=
  complete s do
    let dx ← xDiff s
    let dy ← yDiff s
    let dw ← wheelDiff s
    return advance (movePositions dx dy dw s)

end Sys2Proof.Machine
end

