-- ==== Sys2Proof/Machine/SyncChannel.lean ====
section
/-! DEFINITION. The SyncChannel family: `WAIT` and `EMITC` (40_sync_channel). -/

namespace Sys2Proof.Machine

/-- The passing half of `WAIT`: the acknowledgement write and `pc + 1` (40_sync_channel R66). -/
def acknowledge (s : State) : Except FaultReason State := do
  let t ← ioWrite s.cfg.chAddr ackByte s
  return advance t

/-- `WAIT` (40_sync_channel R66): poll the channel; a nonzero value is acknowledged, all in one step; on 0 the guest is
held and has no step (not a stuttering step). -/
def execWait (s : State) : Host.Outcome State Fault Refusal :=
  match ioRead s.cfg.chAddr s with
  | .ok (v, t) => if v = 0 then .fault .held else complete s (acknowledge t)
  | .error f => .next (raise f s)

/-- `EMITC c` (40_sync_channel R67): one data transmission. -/
def execEmitc (c : Byte) (s : State) : Host.Outcome State Fault Refusal :=
  complete s do
    let t ← ioWrite s.cfg.chAddr c s
    return advance t

end Sys2Proof.Machine
end

