-- ==== Sys2Proof/Machine/Dispatch.lean ====
section
/-! DEFINITION. The dispatch: one arm per command, each one call of its meaning. -/

namespace Sys2Proof.Machine

def exec (i : Instr) (s : State) : Host.Outcome State Fault Refusal :=
  match i with
  | .wait => Sys2Proof.Machine.execWait s
  | .emitc c => Sys2Proof.Machine.execEmitc c s
  | .emithi b => Sys2Proof.Machine.execEmithi b s
  | .emith r => Sys2Proof.Machine.execEmith r s
  | .ksamp => Sys2Proof.Machine.execKsamp s
  | .jsamp => Sys2Proof.Machine.execJsamp s
  | .msamp => Sys2Proof.Machine.execMsamp s
  | .pstep => Sys2Proof.Machine.execPstep s
  | .render => Sys2Proof.Machine.execRender s
  | .pbtn k => Sys2Proof.Machine.execPbtn k s
  | .pscr => Sys2Proof.Machine.execPscr s
  | .jmp t => Sys2Proof.Machine.execJmp t s

end Sys2Proof.Machine
end

