-- ==== Sys2Proof/Machine/Sequencer.lean ====
section
/-! DEFINITION. The sequencer (46_sequencer_loops R114): fetch, decode, execute; and the host's turn at a hold
(20_memory R41). -/

namespace Sys2Proof.Machine

/-- What stands at `pc` (46_sequencer_loops R114). -/
inductive Fetched where
  /-- `pc = PROGLEN`: the end of the run. -/
  | endOfProgram
  /-- `pc > PROGLEN`, which no run reaches (10_state R35). -/
  | outside
  /-- A word that is no command (30_encoding R57). -/
  | illegal (w : Word)
  /-- A command. -/
  | command (i : Instr)
deriving DecidableEq, Repr

/-- Decode of a fetched word. -/
def decoded (w : Word) : Fetched :=
  match decode w with
  | .ok i => .command i
  | .error _ => .illegal w

/-- The fetch at `pc`: one word of the program store, without side effect (46_sequencer_loops R114, 20_memory R53). -/
def fetch (s : State) : Fetched :=
  match s.cfg.prog[s.pc]? with
  | some w => decoded w
  | none => if s.pc = s.cfg.progLen then .endOfProgram else .outside

/-- The guest is held: `RUN = Running`, the command at `pc` is `WAIT`, and `REL = 0` (20_memory R41). -/
def held (s : State) : Bool := decide (s.run = .running) && decide (fetch s = .command .wait) && decide (s.rel = 0)

/-- The guest step (46_sequencer_loops R114), for a running guest. -/
def guestStep (s : State) : Host.Outcome State Fault Refusal :=
  match fetch s with
  | .endOfProgram => .next { s with run := .done }
  | .outside => .fault (.pcOutside s.pc)
  | .illegal w => .next (raise (.illegalCommand w) s)
  | .command i => exec i s

/-- `host_release(v)` (20_memory R41). -/
def hostRelease (v : Byte) (s : State) : State := emitEvent (.release v) { s with rel := v }

/-- One change of a device register (20_memory R41). -/
def changeDevice (s : State) : DevChange → State
  | .kb i v => { s with devKb := s.devKb.set i v }
  | .joy v => { s with devJoy := v }
  | .mx v => { s with devMx := v }
  | .my v => { s with devMy := v }
  | .mb v => { s with devMb := v }

/-- `host_dev(f)` (20_memory R41): any changes of the host-owned device registers, one event. -/
def hostDev (cs : List DevChange) (s : State) : State := emitEvent (.hostDev cs) (cs.foldl changeDevice s)

/-- The host's turn at a hold: the next step of its script (20_memory R41). With none left the hold is never lifted
(40_sync_channel R69); a release with 0 is a step the host does not have. -/
def hostTurn (s : State) : Host.Outcome State Fault Refusal :=
  match s.script with
  | [] => .fault .held
  | .release v :: rest =>
    if v = 0 then .refused .hostReleasesZero else .next (hostRelease v { s with script := rest })
  | .dev cs :: rest => .next (hostDev cs { s with script := rest })
  | .observe :: rest => .next { s with script := rest }

/-- One step of the whole machine (46_sequencer_loops R118): the host acts at a hold, the guest otherwise; none acts
after the end of the run or after a fault; an ill-formed configuration is refused (00_scope R8). -/
def machineStep (s : State) : Host.Outcome State Fault Refusal :=
  if s.cfg.wf then
    match s.run with
    | .done => .fault .ended
    | .faulted r => .fault (.faulted r)
    | .running => if held s then hostTurn s else guestStep s
  else .refused .illFormedConfig

/-- The program with the word `w` at index `pc`, every other word kept; a program too short is filled up with the
illegal word 0x0000. -/
def placeWord (w : Word) : Nat → List Word → List Word
  | 0, [] => [w]
  | 0, _ :: p => w :: p
  | n + 1, [] => 0 :: placeWord w n []
  | n + 1, v :: p => v :: placeWord w n p

/-- The state whose next guest step fetches `w`: `w` stands at `pc` in the program store and the guest runs. A `pc` that
no store of 256 words reaches is set to 0. -/
def loadWordAtPc (w : Word) (s : State) : State :=
  if s.pc < 256 then { s with cfg := { s.cfg with prog := placeWord w s.pc s.cfg.prog }, run := .running }
  else { s with cfg := { s.cfg with prog := placeWord w 0 s.cfg.prog }, pc := 0, run := .running }

end Sys2Proof.Machine
end

