-- ==== Sys2Proof/Machine/Step.lean ====
section
/-! DEFINITION. The step of the machine, and the state the host prepares to run one word. -/

namespace Sys2Proof.Machine

/-- One step of the machine (46_sequencer_loops R114, R118). -/
def step (s : State) : Host.Outcome State Fault Refusal := machineStep s

/-- `s` with the word whose bits are `w` stored where the next step fetches (notes/assumptions/4.md). A command is one
word (30_encoding R54). -/
def State.withFetchWord (s : State) (nbits w : Nat) : State := loadWordAtPc (BitVec.ofNat 16 (w % 2 ^ nbits)) s

end Sys2Proof.Machine
end

