-- ==== Sys2Proof/Machine/Pseudo.lean ====
section
/-! DEFINITION. The pseudo-instructions (30_encoding R65) and the three guest loops as programs (46_sequencer_loops R120
to R124). They are lists of commands; `words` gives the program store's words. -/

namespace Sys2Proof.Machine

/-- The words of a list of commands, in order. -/
def words (p : List Instr) : List Word := p.map encode

/-- `EMITS "s"`: one `EMITC` per character, first character first (41_hex_encoder R74). -/
def emits (s : List Byte) : List Instr := s.map Instr.emitc

/-- `EMITKF`: the eight `EMITH KF0` to `EMITH KF7`, in this order (30_encoding R65, 42_keyboard R78). -/
def emitkf : List Instr := ([0, 1, 2, 3, 4, 5, 6, 7] : List (Fin 8)).map fun i => Instr.emith (.reg (.kf i))

/-- `INIT` (30_encoding R65): the baseline sample (44_mouse R99). -/
def pseudoInit : List Instr := [.msamp]

/-- `POLL` (30_encoding R65). -/
def pseudoPoll : List Instr := [.wait, .msamp, .pstep]

/-- `DRAW` (30_encoding R65). -/
def pseudoDraw : List Instr := [.render, .pbtn 0, .pbtn 1, .pbtn 2, .pbtn 3, .pscr]

/-- The keyboard loop `KBD` (46_sequencer_loops R120). -/
def kbdLoop (c : Config) : List Instr := [.wait, .ksamp] ++ emitkf ++ emits c.kbSep ++ [.jmp 0]

/-- The joystick loop `JOYP` (46_sequencer_loops R121). -/
def joyLoop (c : Config) : List Instr := [.wait, .jsamp, .emith (.reg .joy)] ++ emits c.joySep ++ [.jmp 0]

/-- The mouse demo `MOUSE` (46_sequencer_loops R124). -/
def mouseDemo : List Instr := pseudoInit ++ pseudoPoll ++ pseudoDraw ++ [.jmp 1]

/-- The configuration with the commands `p` as its program store (notes/assumptions/4.md). -/
def withProgram (p : List Instr) (c : Config) : Config := { c with prog := words p }

/-- The three states of the mouse demo (46_sequencer_loops R122). -/
inductive LoopState where
  | init
  | poll
  | render
deriving DecidableEq, Repr

/-- The document's loop state as a range of `pc` in the mouse demo (46_sequencer_loops R124). -/
def loopState (pc : Nat) : Option LoopState :=
  if pc = 0 then some .init
  else if pc ≤ 3 then some .poll
  else if pc ≤ 10 then some .render
  else none

end Sys2Proof.Machine
end

