-- ==== Sys2Proof/Safety.lean ====
section
/-! DEFINITION. What counts as a good state and a safe run, in the terms the statements use: the invariants of 10_state
R35, the ends of a run and of an observation (46_sequencer_loops R117), the visible window (10_state R25). -/

namespace Sys2Proof.Machine

/-- The byte of a `Data` event. -/
def dataByte : Event → Option Byte
  | .data b => some b
  | _ => none

/-- The bytes of the `Data` events of a history, in order (10_state R27). -/
def dataBytes (ev : List Event) : List Byte := ev.filterMap dataByte

/-- The value a device change gives row `i` of the keyboard, if it changes it. -/
def rowChange (i : Fin 8) : DevChange → Option Byte
  | .kb j v => if j = i then some v else none
  | _ => none

/-- The value a device change gives `DEV.JOY`, if it changes it. -/
def joyChange : DevChange → Option Byte
  | .joy v => some v
  | _ => none

/-- The value a device change gives `DEV.MX`, if it changes it. -/
def mxChange : DevChange → Option Byte
  | .mx v => some v
  | _ => none

/-- The value a device change gives `DEV.MY`, if it changes it. -/
def myChange : DevChange → Option Byte
  | .my v => some v
  | _ => none

/-- The value a device change gives `DEV.MB`, if it changes it. -/
def mbChange : DevChange → Option Byte
  | .mb v => some v
  | _ => none

/-- What a register that held `old` holds after the changes `cs`: the last value they give it, `old` if they give none.
`value` says which changes are the register's. -/
def lastChange (value : DevChange → Option Byte) (cs : List DevChange) (old : Byte) : Byte :=
  (cs.filterMap value).getLastD old

/-- A byte whose bits 7:5 are 0b111 (10_state R16). -/
def topBitsSet (b : Byte) : Bool := b.extractLsb' 5 3 == 7

/-- The invariants of 10_state R35, with the canonical form of the pixel plane. -/
abbrev State.Inv (s : State) : Prop :=
  s.pc ≤ s.cfg.progLen
    ∧ s.py.toNat ≤ 192
    ∧ (∀ v ∈ s.ppy, v.toNat ≤ 192)
    ∧ s.wpos.toNat ≤ 191
    ∧ (∀ v ∈ s.pwpos, v.toNat ≤ 191)
    ∧ (∀ i : Fin 8, ∀ v ∈ s.kf[i], topBitsSet v = true)
    ∧ s.out = dataBytes s.ev
    ∧ s.pix.wf

/-- The end of a run (46_sequencer_loops R117): final, no agent steps. -/
abbrev State.endOfRun (s : State) : Prop := s.run = .done

/-- The end of an observation (46_sequencer_loops R117): held, with no host step left. -/
abbrev State.endOfObservation (s : State) : Prop := held s = true ∧ s.script = []

/-- A safe state: no fault was raised (60_exceptions R131). -/
abbrev State.noFault (s : State) : Prop := ∀ r, s.run ≠ .faulted r

/-- A pixel of the visible window (10_state R25). -/
def visible (c : Pixel) : Bool := decide (0 ≤ c.x) && decide (c.x < screenW) && decide (0 ≤ c.y) && decide (c.y < screenH)

end Sys2Proof.Machine
end

