-- ==== Sys2Proof/Certificates/Slice0/Obligations.lean ====
section
/-! DEFINITION. The statements about the block, from the numbered rules of spec/. A statement about an instruction is an
equation `exec i s = .next { s with … }` wherever it can be one: that equation says that the instruction completes, what
it writes, and (by the record update) that it leaves every other field of the state as it was. -/

open Sys2Proof Sys2Proof.Machine

/-! ### Encoding -/

/-- 30_encoding R54 to R58: decoding the word of any command gives it back, with every operand at every value. -/
def Obligations.DecodeEncodeRoundTrip : Prop := ∀ i : Instr, decode (encode i) = .ok i

/-- 30_encoding R54 to R58: a word decodes to one command, whose encoding is that word; no bit of it is dropped. -/
def Obligations.EncodeDecodeRoundTrip : Prop := ∀ (w : Word) (i : Instr), decode w = .ok i → encode i = w

/-- 30_encoding R57: exactly the listed words are illegal; executing one raises `IllegalCommand(W)` and nothing else
happens; a jump word is never illegal, and with a target at or above `PROGLEN` it raises `BadTarget`. -/
def Obligations.IllegalWordsAreExactlyTheListed : Prop :=
  (∀ w : Word, (∃ e, decode w = .error e) ↔
    (w.toNat / 256 = 0x00 ∨ 0x0D ≤ w.toNat / 256
      ∨ (w.toNat / 256 ∈ [0x01, 0x05, 0x06, 0x07, 0x08, 0x09, 0x0B] ∧ w.toNat % 256 ≠ 0)
      ∨ (w.toNat / 256 = 0x04 ∧ 0x18 ≤ w.toNat % 256)
      ∨ (w.toNat / 256 = 0x0A ∧ 0x04 ≤ w.toNat % 256)))
  ∧ (∀ (s : State) (w : Word) (e : DecodeError), s.cfg.wf = true → s.run = .running → s.cfg.prog[s.pc]? = some w →
      decode w = .error e → step s = .next { s with run := .faulted (.illegalCommand w) })
  ∧ (∀ (s : State) (w : Word), s.cfg.wf = true → s.run = .running → s.cfg.prog[s.pc]? = some w →
      w.toNat / 256 = 0x0C → s.cfg.progLen ≤ w.toNat % 256 →
      decode w = .ok (.jmp (BitVec.ofNat 8 w.toNat))
        ∧ step s = .next { s with run := .faulted (.badTarget (BitVec.ofNat 8 w.toNat)) })

/-- 30_encoding R55, 60_exceptions R135: words written out from the opcode map decode to their commands, and the
nearest illegal words are refused. The spec has one fault for them all; the decoder's reason names are the model's
(DESIGN CHOICE, notes/assumptions/21.md). -/
def Obligations.WrittenOutWordsDecode : Prop :=
  decode 0b0000000100000000 = .ok .wait
  ∧ decode 0b0000001000101100 = .ok (.emitc 0x2C)
  ∧ decode 0b0000001110100101 = .ok (.emithi 0xA5)
  ∧ decode 0b0000010000010111 = .ok (.emith (.reg .pwpos))
  ∧ decode 0b0000010100000000 = .ok .ksamp
  ∧ decode 0b0000011000000000 = .ok .jsamp
  ∧ decode 0b0000011100000000 = .ok .msamp
  ∧ decode 0b0000100000000000 = .ok .pstep
  ∧ decode 0b0000100100000000 = .ok .render
  ∧ decode 0b0000101000000010 = .ok (.pbtn 2)
  ∧ decode 0b0000101100000000 = .ok .pscr
  ∧ decode 0b0000110011111111 = .ok (.jmp 0xFF)
  ∧ decode 0x0101 = .error .argumentNotZero
  ∧ decode 0x0418 = .error .reservedSelector
  ∧ decode 0x0A04 = .error .reservedButton
  ∧ decode 0x0D00 = .error .reservedOpcode
  ∧ decode 0x0000 = .error .reservedOpcode

/-- 30_encoding R58: the selector number of every register and view, what the read `x[r]` returns, when it raises
`UnwrittenRegister`, and the reserved numbers. -/
def Obligations.SelectorTable : Prop :=
  (∀ i : Fin 8, decode (0x0400 + BitVec.ofNat 16 i.val) = .ok (.emith (.reg (.kf i))))
  ∧ [0x08, 0x09, 0x0A, 0x0B, 0x0C, 0x0D, 0x0E, 0x0F, 0x10, 0x11, 0x12, 0x13, 0x14, 0x15, 0x16, 0x17].map selectorOf =
      [some (.reg .joy), some (.reg .mx), some (.reg .my), some (.reg .mb), some (.reg .pmx), some (.reg .pmy),
       some (.reg .pmb), some .dx, some .dy, some .dw, some (.reg .px), some (.reg .py), some (.reg .ppx),
       some (.reg .ppy), some (.reg .wpos), some (.reg .pwpos)]
  ∧ (∀ s : State, (∀ i : Fin 8, regHolds s (.kf i) = s.kf[i])
      ∧ [Reg.joy, .mx, .my, .mb, .pmx, .pmy, .pmb, .px, .py, .ppx, .ppy, .wpos, .pwpos].map (regHolds s) =
          [s.joy, s.mx, s.my, s.mb, s.pmx, s.pmy, s.pmb, some s.px, some s.py, s.ppx, s.ppy, some s.wpos, s.pwpos])
  ∧ (∀ n : Byte, 0x18 ≤ n.toNat → selectorOf n = none ∧ ∃ e, decode (0x0400 ||| n.setWidth 16) = .error e)
  ∧ (∀ (s : State) (r : Reg) (b : Byte), regHolds s r = some b → readSelector s (.reg r) = .ok b)
  ∧ (∀ (s : State) (r : Reg), regHolds s r = none → readSelector s (.reg r) = .error (.unwrittenRegister r))
  ∧ (∀ (s : State) (sel : RegSel) (cur prev : Reg),
      (sel, cur, prev) ∈ [(RegSel.dx, Reg.mx, Reg.pmx), (.dy, .my, .pmy), (.dw, .mb, .pmb)] →
      (regHolds s cur = none ∨ regHolds s prev = none →
        ∃ q, (q = cur ∨ q = prev) ∧ regHolds s q = none ∧ readSelector s sel = .error (.unwrittenRegister q))
      ∧ (regHolds s cur ≠ none → regHolds s prev ≠ none → ∃ b, readSelector s sel = .ok b))
  ∧ ∀ s : State,
      (∀ d, xDiff s = .ok d → readSelector s .dx = .ok (BitVec.ofInt 8 (d % 256)))
      ∧ (∀ d, yDiff s = .ok d → readSelector s .dy = .ok (BitVec.ofInt 8 (d % 256)))
      ∧ (∀ d, wheelDiff s = .ok d → readSelector s .dw = .ok (BitVec.ofInt 8 (d % 256)))
      ∧ (∀ f, xDiff s = .error f → readSelector s .dx = .error f)
      ∧ (∀ f, yDiff s = .error f → readSelector s .dy = .error f)
      ∧ (∀ f, wheelDiff s = .error f → readSelector s .dw = .error f)

/-! ### The configuration, the sequencer and the host -/

/-- 00_scope R8 (with the ranges of R7): the check of a configuration is the spec's constraints, and a configuration
that breaks them is refused. -/
def Obligations.ConfigurationCheck : Prop :=
  (∀ c : Config, c.wf = true ↔
    0 < c.addrW
    ∧ (c.chAddr < 2 ^ c.addrW ∧ c.joyAddr < 2 ^ c.addrW ∧ c.mouseSelAddr < 2 ^ c.addrW ∧ c.mouseDataAddr < 2 ^ c.addrW
        ∧ ∀ i : Fin 8, c.kbSel[i] < 2 ^ c.addrW)
    ∧ (c.chAddr ≠ c.joyAddr ∧ c.chAddr ≠ c.mouseSelAddr ∧ c.chAddr ≠ c.mouseDataAddr ∧ c.joyAddr ≠ c.mouseSelAddr
        ∧ c.joyAddr ≠ c.mouseDataAddr)
    ∧ (∀ i : Fin 8, c.kbSel[i] ≠ c.chAddr ∧ c.kbSel[i] ≠ c.joyAddr ∧ c.kbSel[i] ≠ c.mouseSelAddr
        ∧ c.kbSel[i] ≠ c.mouseDataAddr)
    ∧ (∀ i j : Fin 8, i ≠ j → c.kbSel[i] ≠ c.kbSel[j])
    ∧ (c.mselX ≠ c.mselY ∧ c.mselX ≠ c.mselB ∧ c.mselY ≠ c.mselB)
    ∧ c.pyReset.toNat ≤ 191 ∧ c.wposReset.toNat ≤ 191 ∧ c.prog.length ≤ 256)
  ∧ ∀ s : State, s.cfg.wf = false → step s = .refused .illFormedConfig

/-- 46_sequencer_loops R114: where the word at `pc` decodes to a command and the guest is running and not held, the step
is that command's meaning, with nothing added. -/
def Obligations.StepRunsTheFetchedCommand : Prop :=
  ∀ (s : State) (w : Word) (i : Instr), s.cfg.wf = true → s.run = .running → s.cfg.prog[s.pc]? = some w →
    decode w = .ok i → (i = .wait → s.rel ≠ 0) → step s = exec i s

/-- 46_sequencer_loops R117: the guest step at `pc = PROGLEN` ends the run, and after that no agent steps. -/
def Obligations.EndOfRunIsFinal : Prop :=
  (∀ s : State, s.cfg.wf = true → s.run = .running → s.pc = s.cfg.progLen → step s = .next { s with run := .done })
  ∧ ∀ s : State, s.cfg.wf = true → s.run = .done → step s = .fault .ended

/-- 60_exceptions R131: a faulted machine is quiescent; no step leaves the fault. -/
def Obligations.FaultedMachineIsQuiescent : Prop :=
  ∀ (s : State) (r : FaultReason), s.cfg.wf = true → s.run = .faulted r → step s = .fault (.faulted r)

/-- 20_memory R41, for the host's script that State carries: at a hold the step is the host's next step, each kind with
its own effect. A device step gives each host-owned device register the last value its changes give it, and leaves it
alone where they give none; with no step left the hold is not lifted. The model's own: the script
(notes/assumptions/8.md), the list of changes the event `HostDev` carries (DESIGN CHOICE, 17.md), the refusal of a release
with 0 (DEDUCED, 14.md). -/
def Obligations.HostActsAtAHold : Prop :=
  ∀ s : State, s.cfg.wf = true → s.run = .running → s.cfg.prog[s.pc]? = some 0x0100 → s.rel = 0 →
    (s.script = [] → step s = .fault .held)
    ∧ (∀ v rest, v ≠ 0 → s.script = .release v :: rest →
        step s = .next { s with rel := v, ev := s.ev ++ [.release v], script := rest })
    ∧ (∀ rest, s.script = .release 0 :: rest → step s = .refused .hostReleasesZero)
    ∧ (∀ rest, s.script = .observe :: rest → step s = .next { s with script := rest })
    ∧ (∀ cs rest, s.script = .dev cs :: rest → step s =
        .next { s with
          devKb := Vector.ofFn fun i : Fin 8 => lastChange (rowChange i) cs s.devKb[i]
          devJoy := lastChange joyChange cs s.devJoy
          devMx := lastChange mxChange cs s.devMx
          devMy := lastChange myChange cs s.devMy
          devMb := lastChange mbChange cs s.devMb
          ev := s.ev ++ [.hostDev cs]
          script := rest })

/-- The model's own interface (notes/assumptions/4.md): a word placed by `withFetchWord` is the next one fetched, and the
configuration stays well formed. -/
def Obligations.PlacedWordIsFetchedNext : Prop :=
  ∀ (s : State) (w : Nat), s.cfg.wf = true →
    fetch (s.withFetchWord 16 w) = decoded (BitVec.ofNat 16 w) ∧ (s.withFetchWord 16 w).cfg.wf = true
      ∧ (s.withFetchWord 16 w).run = .running

/-! ### The SyncChannel family -/

/-- 40_sync_channel R66: `WAIT` with a release pending acknowledges it and goes on; without one it is no step. -/
def Obligations.WaitPassesOnReleaseOnly : Prop :=
  encode .wait = 0x0100
  ∧ (∀ s : State, s.rel ≠ 0 →
      exec .wait s = .next { s with rel := 0, tx := some 1, ev := s.ev ++ [.ack 1], pc := s.pc + 1 })
  ∧ ∀ s : State, s.rel = 0 → exec .wait s = .fault .held

/-- 40_sync_channel R68, a theorem of the spec: after a passing `WAIT` the channel reads 0, and it reads 0 until the
host's next release at a hold. -/
def Obligations.AcknowledgementIsNoRelease : Prop :=
  (∀ s t : State, exec .wait s = .next t → ioRead t.cfg.chAddr t = .ok (0, t))
  ∧ ∀ s t : State, s.rel = 0 → step s = .next t → t.rel ≠ 0 →
      held s = true ∧ ∃ rest, s.script = .release t.rel :: rest

/-- 40_sync_channel R67, on the channel of 20_memory R40: `EMITC` transmits its byte; with a release pending (no run of
the host's protocol) its write is the acknowledgement instead. -/
def Obligations.EmitcTransmitsOneByte : Prop :=
  ∀ (c : Byte) (s : State), encode (.emitc c) = 0x0200 ||| c.setWidth 16
    ∧ (s.rel = 0 → exec (.emitc c) s =
        .next { s with tx := some c, out := s.out ++ [c], ev := s.ev ++ [.data c], pc := s.pc + 1 })
    ∧ (s.rel ≠ 0 → exec (.emitc c) s =
        .next { s with rel := 0, tx := some c, ev := s.ev ++ [.ack c], pc := s.pc + 1 })

/-! ### The HexByteEncoder family -/

/-- 41_hex_encoder R71 with the table of 30_encoding R59: the two characters of a byte, from the alphabet
0123456789ABCDEF, high digit first. Their codes are ASCII's, which the spec takes from general knowledge (PRESUMED,
notes/assumptions/26.md). -/
def Obligations.HexPairCharacters : Prop :=
  ∀ b : Byte, (hex2 b).map some =
    [([0x30, 0x31, 0x32, 0x33, 0x34, 0x35, 0x36, 0x37, 0x38, 0x39, 0x41, 0x42, 0x43, 0x44, 0x45, 0x46] : List Byte)[b.toNat / 16]?,
     ([0x30, 0x31, 0x32, 0x33, 0x34, 0x35, 0x36, 0x37, 0x38, 0x39, 0x41, 0x42, 0x43, 0x44, 0x45, 0x46] : List Byte)[b.toNat % 16]?]

/-- 41_hex_encoder R75, in the document's words: decoding the two characters of a byte as hex gives the byte; and the
pair determines the byte. -/
def Obligations.HexRoundTrip : Prop :=
  (∀ b : Byte, (hex2 b).foldl (fun n c => 16 * n + unhex c) 0 = b.toNat) ∧ ∀ a b : Byte, hex2 a = hex2 b → a = b

/-- 41_hex_encoder R72: `EMITHI` writes the two characters, high digit first, each as a data transmission; with a
release pending (no run of the host's protocol) the first write is the acknowledgement. -/
def Obligations.EmithiTransmitsTheHexPair : Prop :=
  ∀ (b hi lo : Byte) (s : State), encode (.emithi b) = 0x0300 ||| b.setWidth 16
    ∧ (hex2 b = [hi, lo] → s.rel = 0 → exec (.emithi b) s =
        .next { s with tx := some lo, out := s.out ++ [hi, lo], ev := s.ev ++ [.data hi, .data lo], pc := s.pc + 1 })
    ∧ (hex2 b = [hi, lo] → s.rel ≠ 0 → exec (.emithi b) s =
        .next { s with rel := 0, tx := some lo, out := s.out ++ [lo], ev := s.ev ++ [.ack hi, .data lo], pc := s.pc + 1 })

/-- 41_hex_encoder R73, registers: `EMITH` of a register that holds a value transmits its hex pair. -/
def Obligations.EmithTransmitsARegister : Prop :=
  ∀ (r : Reg) (b hi lo : Byte) (s : State), regHolds s r = some b → hex2 b = [hi, lo] →
    (s.rel = 0 → exec (.emith (.reg r)) s =
        .next { s with tx := some lo, out := s.out ++ [hi, lo], ev := s.ev ++ [.data hi, .data lo], pc := s.pc + 1 })
    ∧ (s.rel ≠ 0 → exec (.emith (.reg r)) s =
        .next { s with rel := 0, tx := some lo, out := s.out ++ [lo], ev := s.ev ++ [.ack hi, .data lo], pc := s.pc + 1 })

/-- 41_hex_encoder R73 with 10_state R21, the views: `EMITH` of `DX`, `DY` or `DW` transmits the two's-complement byte
of the delta, which is the modulo-256 difference, or the sign-extended modulo-16 difference of the wheel counters. With a
release pending (no run of the host's protocol) it is the same as `EMITHI` of that byte. -/
def Obligations.EmithTransmitsTheSignedViews : Prop :=
  (∀ (s : State) (cur prev : Byte), s.rel = 0 →
    (s.mx = some cur → s.pmx = some prev → exec (.emith .dx) s =
        .next { s with tx := (hex2 (cur - prev))[1]?, out := s.out ++ hex2 (cur - prev),
                       ev := s.ev ++ (hex2 (cur - prev)).map .data, pc := s.pc + 1 })
    ∧ (s.my = some cur → s.pmy = some prev → exec (.emith .dy) s =
        .next { s with tx := (hex2 (cur - prev))[1]?, out := s.out ++ hex2 (cur - prev),
                       ev := s.ev ++ (hex2 (cur - prev)).map .data, pc := s.pc + 1 })
    ∧ (s.mb = some cur → s.pmb = some prev → exec (.emith .dw) s =
        .next { s with tx := (hex2 ((wheelCounter cur - wheelCounter prev).signExtend 8))[1]?,
                       out := s.out ++ hex2 ((wheelCounter cur - wheelCounter prev).signExtend 8),
                       ev := s.ev ++ (hex2 ((wheelCounter cur - wheelCounter prev).signExtend 8)).map .data,
                       pc := s.pc + 1 }))
  ∧ ∀ (s : State) (cur prev : Byte), s.rel ≠ 0 →
    (s.mx = some cur → s.pmx = some prev → exec (.emith .dx) s = exec (.emithi (cur - prev)) s)
    ∧ (s.my = some cur → s.pmy = some prev → exec (.emith .dy) s = exec (.emithi (cur - prev)) s)
    ∧ (s.mb = some cur → s.pmb = some prev →
        exec (.emith .dw) s = exec (.emithi ((wheelCounter cur - wheelCounter prev).signExtend 8)) s)

/-- 60_exceptions R132, `EMITH`: an operand without a value raises `UnwrittenRegister` and nothing else happens. For a
view the register named is the first without a value, current before previous (notes/assumptions/15.md). -/
def Obligations.EmithFaultsOnAnUnwrittenOperand : Prop :=
  (∀ (s : State) (r : Reg), regHolds s r = none →
    exec (.emith (.reg r)) s = .next { s with run := .faulted (.unwrittenRegister r) })
  ∧ (∀ (s : State) (sel : RegSel) (cur prev : Reg),
      (sel, cur, prev) ∈ [(RegSel.dx, Reg.mx, Reg.pmx), (.dy, .my, .pmy), (.dw, .mb, .pmb)] →
      (regHolds s cur = none → exec (.emith sel) s = .next { s with run := .faulted (.unwrittenRegister cur) })
      ∧ (regHolds s cur ≠ none → regHolds s prev = none →
          exec (.emith sel) s = .next { s with run := .faulted (.unwrittenRegister prev) }))

/-! ### The samplers -/

/-- 42_keyboard R76: `KSAMP` reads the eight half-rows in index order, each ORed with 0xE0 into its register. -/
def Obligations.KsampFillsTheFrame : Prop :=
  encode .ksamp = 0x0500
  ∧ ∀ s : State, s.cfg.wf = true → exec .ksamp s =
      .next { s with
        kf := Vector.ofFn fun i : Fin 8 => some (s.devKb[i] ||| 0xE0)
        ev := s.ev ++ (List.finRange 8).map fun i => .devRd s.cfg.kbSel[i] s.devKb[i]
        pc := s.pc + 1 }

/-- 42_keyboard R77: the frame does not depend on bits 7:5 of the raw bytes; its own bits 7:5 are 1 and its low five
bits are the matrix lines. -/
def Obligations.FrameIsAFunctionOfTheMatrixLines : Prop :=
  (∀ s t u v : State, s.cfg.wf = true → t.cfg.wf = true →
    (∀ i : Fin 8, s.devKb[i] &&& 0x1F = t.devKb[i] &&& 0x1F) →
    exec .ksamp s = .next u → exec .ksamp t = .next v → u.kf = v.kf)
  ∧ ∀ s u : State, s.cfg.wf = true → exec .ksamp s = .next u →
      ∀ i : Fin 8, ∃ b, u.kf[i] = some b ∧ b &&& 0xE0 = 0xE0 ∧ b &&& 0x1F = s.devKb[i] &&& 0x1F

/-- 43_joystick R80: `JSAMP` makes one read and stores the byte unmodified. -/
def Obligations.JsampStoresTheByteUnmodified : Prop :=
  encode .jsamp = 0x0600
  ∧ ∀ s : State, s.cfg.wf = true → exec .jsamp s =
      .next { s with joy := some s.devJoy, ev := s.ev ++ [.devRd s.cfg.joyAddr s.devJoy], pc := s.pc + 1 }

/-- 44_mouse R83: `MSAMP` copies the current snapshot to the previous one, "no value" included, then selects and reads
X, Y and the status, strictly alternating, y stored as 255 minus the raw byte. -/
def Obligations.MsampTakesASnapshot : Prop :=
  encode .msamp = 0x0700
  ∧ ∀ s : State, s.cfg.wf = true → exec .msamp s =
      .next { s with
        pmx := s.mx, pmy := s.my, pmb := s.mb
        mx := some s.devMx, my := some (255 - s.devMy), mb := some s.devMb
        devMsel := some s.cfg.mselB
        ev := s.ev ++
          [.devWr s.cfg.mouseSelAddr s.cfg.mselX, .devRd s.cfg.mouseDataAddr s.devMx,
           .devWr s.cfg.mouseSelAddr s.cfg.mselY, .devRd s.cfg.mouseDataAddr s.devMy,
           .devWr s.cfg.mouseSelAddr s.cfg.mselB, .devRd s.cfg.mouseDataAddr s.devMb]
        pc := s.pc + 1 }

/-- 44_mouse R83, corner case: two `MSAMP` with no host step between make all three deltas 0. -/
def Obligations.MsampTwiceGivesZeroDeltas : Prop :=
  ∀ s t u : State, s.cfg.wf = true → exec .msamp s = .next t → exec .msamp t = .next u →
    xDiff u = .ok 0 ∧ yDiff u = .ok 0 ∧ wheelDiff u = .ok 0

/-- 44_mouse R86, R87: the deltas are the modulo-256 difference of current minus previous, reinterpreted as a signed
byte, with no value when either register has none. -/
def Obligations.DeltasWrapAroundSigned : Prop :=
  (∀ (s : State) (a b : Byte) (n : Nat), n = (a.toNat + 256 - b.toNat) % 256 →
    (s.mx = some a → s.pmx = some b → xDiff s = .ok (if n ≤ 127 then (n : Int) else (n : Int) - 256))
    ∧ (s.my = some a → s.pmy = some b → yDiff s = .ok (if n ≤ 127 then (n : Int) else (n : Int) - 256)))
  ∧ ∀ s : State, (s.mx = none ∨ s.pmx = none → ∃ f, xDiff s = .error f)
      ∧ (s.my = none ∨ s.pmy = none → ∃ f, yDiff s = .error f)

/-- 44_mouse R88, and the nibble form the spec derives in R89: the wheel delta is the modulo-16 difference of the high
nibbles, read as a signed nibble; the buttons do not matter. -/
def Obligations.WheelDeltaIsANibbleDifference : Prop :=
  (∀ (s : State) (a b : Byte) (n : Nat), s.mb = some a → s.pmb = some b →
    n = (a.toNat / 16 + 16 - b.toNat / 16) % 16 →
    wheelDiff s = .ok (if n ≤ 7 then (n : Int) else (n : Int) - 16))
  ∧ ∀ s : State, s.mb = none ∨ s.pmb = none → ∃ f, wheelDiff s = .error f

/-- 44_mouse R92 with R93 to R95 and R97: with both snapshots present, `PSTEP` remembers the old positions and moves
them: x modulo 256; y on integers, 1 when above 191 and 192 when below 0; the wheel clamped to 0..191. The x clause rests
on the decided `XWRAP` of R93, which the model fixes (DESIGN CHOICE, notes/assumptions/20.md). -/
def Obligations.PstepMovesThePositions : Prop :=
  encode .pstep = 0x0800
  ∧ ∀ (s : State) (x px y py b pb : Byte), s.mx = some x → s.pmx = some px → s.my = some y → s.pmy = some py →
      s.mb = some b → s.pmb = some pb →
      ∃ (nx ny nw : Byte), exec .pstep s =
          .next { s with ppx := some s.px, ppy := some s.py, pwpos := some s.wpos, px := nx, py := ny, wpos := nw,
                         pc := s.pc + 1 }
        ∧ nx = s.px + (x - px)
        ∧ (ny.toNat : Int) =
            (if 191 < (s.py.toNat : Int) + (y - py).toInt then 1
             else if (s.py.toNat : Int) + (y - py).toInt < 0 then 192
             else (s.py.toNat : Int) + (y - py).toInt)
        ∧ (nw.toNat : Int) = max 0 (min 191 ((s.wpos.toNat : Int) + (wheelCounter b - wheelCounter pb).toInt))

/-- 44_mouse R94, R95, R97, in terms of the deltas: a `PSTEP` that does not fault has a `yDiff` and a `wheelDiff`; it
tests `PY + yDiff` as an integer, giving 1 above 191 and 192 below 0 however far it overshot, and clamps
`WPOS + wheelDiff`. -/
def Obligations.PstepWrapsYAndClampsTheWheel : Prop :=
  ∀ s t : State, exec .pstep s = .next t → t.pc ≠ s.pc →
    (∃ dy : Int, yDiff s = .ok dy
      ∧ (191 < (s.py.toNat : Int) + dy → t.py = 1)
      ∧ ((s.py.toNat : Int) + dy < 0 → t.py = 192)
      ∧ (0 ≤ (s.py.toNat : Int) + dy → (s.py.toNat : Int) + dy ≤ 191 → (t.py.toNat : Int) = s.py.toNat + dy))
    ∧ ∃ dw : Int, wheelDiff s = .ok dw ∧ (t.wpos.toNat : Int) = max 0 (min 191 (s.wpos.toNat + dw))

/-- 60_exceptions R132, `PSTEP`: the first register without a value, in the order `MX`, `PMX`, `MY`, `PMY`, `MB`, `PMB`,
is the one reported, and nothing else happens. -/
def Obligations.PstepReportsTheFirstUnwritten : Prop :=
  ∀ (s : State) (r : Reg),
    ([Reg.mx, .pmx, .my, .pmy, .mb, .pmb].find? fun q => regHolds s q == none) = some r →
    exec .pstep s = .next { s with run := .faulted (.unwrittenRegister r) }

/-- 44_mouse R98, a theorem of the spec: after a `PSTEP` that does not fault, y is in 0..192 and the wheel in 0..191,
whatever they were before, and the previous registers hold the old values. -/
def Obligations.PstepLeavesPositionsInRange : Prop :=
  ∀ s t : State, exec .pstep s = .next t → t.pc ≠ s.pc →
    t.py.toNat ≤ 192 ∧ t.wpos.toNat ≤ 191 ∧ t.ppx = some s.px ∧ t.ppy = some s.py ∧ t.pwpos = some s.wpos

/-! ### The CursorRenderer family -/

/-- 45_cursor_renderer R101: shape membership is the bounds check and the sprite bit, bit 7 the leftmost column. -/
def Obligations.MembershipIsBoundsAndSpriteBit : Prop :=
  ∀ (cfg : Config) (a c : Pixel), member cfg a c = true ↔
    ∃ i j : Fin 8, c.x = a.x + (i.val : Int) ∧ c.y = a.y + (j.val : Int) ∧ (cfg.sprite[j]).getLsbD (7 - i.val) = true

/-- 45_cursor_renderer R102, R103: `RENDER` clears the previous shape minus the new one, row by row, then sets the new
shape, row by row, one event a call; the plane becomes `(PIX \ (shape(P) \ shape(N))) ∪ shape(N)`. Without a previous
position it raises `UnwrittenRegister` of a coordinate that has no value, before any drawing call. -/
def Obligations.RenderBlitsTheSprite : Prop :=
  encode .render = 0x0900
  ∧ (∀ (s : State) (ox oy : Byte) (p n : Pixel), s.ppx = some ox → s.ppy = some oy →
      p = ⟨ox.toNat, oy.toNat⟩ → n = ⟨s.px.toNat, s.py.toNat⟩ →
      ∃ q : PixelPlane, exec .render s =
          .next { s with
            pix := q
            ev := s.ev
              ++ (((List.range 8).flatMap fun (j : Nat) => (List.range 8).map fun (i : Nat) => Pixel.mk (p.x + i) (p.y + j)).filter
                    fun c => member s.cfg p c && !member s.cfg n c).map (fun c => Event.draw (.clearPixel c))
              ++ (((List.range 8).flatMap fun (j : Nat) => (List.range 8).map fun (i : Nat) => Pixel.mk (n.x + i) (n.y + j)).filter
                    fun c => member s.cfg n c).map (fun c => Event.draw (.setPixel c))
            pc := s.pc + 1 }
        ∧ ∀ c, pixLit q c =
            ((pixLit s.pix c && !(member s.cfg p c && !member s.cfg n c)) || member s.cfg n c))
  ∧ ∀ s : State, s.ppx = none ∨ s.ppy = none →
      ∃ q, (q = .ppx ∨ q = .ppy) ∧ regHolds s q = none
        ∧ exec .render s = .next { s with run := .faulted (.unwrittenRegister q) }

/-- 60_exceptions R130 for `RENDER`: the coordinate it names is `PPX` when that has no value, whatever `PPY` has, else
`PPY`. That R102 reads `PPX` first is the model's reading of its pseudocode (DEDUCED, notes/assumptions/16.md). -/
def Obligations.RenderNamesPpxFirst : Prop :=
  (∀ s : State, s.ppx = none → exec .render s = .next { s with run := .faulted (.unwrittenRegister .ppx) })
  ∧ ∀ (s : State) (ox : Byte), s.ppx = some ox → s.ppy = none →
      exec .render s = .next { s with run := .faulted (.unwrittenRegister .ppy) }

/-- 45_cursor_renderer R106: one `RENDER` issues at most 64 clearing and 64 setting calls. -/
def Obligations.RenderIssuesAtMost128Calls : Prop :=
  ∀ s t : State, exec .render s = .next t → ∃ clears sets : List Pixel, clears.length ≤ 64 ∧ sets.length ≤ 64
    ∧ t.ev = s.ev ++ clears.map (fun c => .draw (.clearPixel c)) ++ sets.map (fun c => .draw (.setPixel c))

/-- 45_cursor_renderer R112, a theorem of the spec: at equal positions nothing is cleared, and the plane only gains the
shape. -/
def Obligations.RenderAtEqualPositionsClearsNothing : Prop :=
  ∀ s t : State, s.ppx = some s.px → s.ppy = some s.py → exec .render s = .next t →
    (∀ c, pixLit t.pix c = (pixLit s.pix c || member s.cfg ⟨s.px.toNat, s.py.toNat⟩ c))
    ∧ ∃ sets : List Pixel, t.ev = s.ev ++ sets.map fun c => .draw (.setPixel c)

/-- 70_reset_and_hazards R150, a theorem of the spec: a second `RENDER` with no `PSTEP` between leaves the plane as the
first left it. The premise is the canonical form of the model's plane (DESIGN CHOICE, notes/assumptions/18.md). -/
def Obligations.SecondRenderLeavesThePlane : Prop :=
  ∀ s t u : State, s.pix.wf → s.run = .running → exec .render s = .next t → exec .render t = .next u → u.pix = t.pix

/-- 45_cursor_renderer R109: `PBTN k` paints box `k` with bit `k` of `MB`, and faults when `MB` has no value; a larger index
is an illegal word, which raises `IllegalCommand`. -/
def Obligations.PbtnPaintsTheButtonFlag : Prop :=
  (∀ (k : Fin 4) (s : State), encode (.pbtn k) = 0x0A00 + BitVec.ofNat 16 k.val
    ∧ (∀ b, s.mb = some b → exec (.pbtn k) s =
        .next { s with btnBox := s.btnBox.set k (some (b.getLsbD k.val)),
                       ev := s.ev ++ [.draw (.buttonBox k (b.getLsbD k.val))], pc := s.pc + 1 })
    ∧ (s.mb = none → exec (.pbtn k) s = .next { s with run := .faulted (.unwrittenRegister .mb) }))
  ∧ ∀ (n : Byte) (s : State), 4 ≤ n.toNat → s.cfg.wf = true → s.run = .running →
      s.cfg.prog[s.pc]? = some (0x0A00 ||| n.setWidth 16) →
      step s = .next { s with run := .faulted (.illegalCommand (0x0A00 ||| n.setWidth 16)) }

/-- 45_cursor_renderer R111: `PSCR` paints the scroll box, previous wheel position first, and faults when there is no
previous one. -/
def Obligations.PscrPaintsTheWheelPosition : Prop :=
  encode .pscr = 0x0B00
  ∧ (∀ (s : State) (a : Byte), s.pwpos = some a → exec .pscr s =
      .next { s with scrollBox := some (s.wpos.toNat : Int),
                     ev := s.ev ++ [.draw (.scrollBox (a.toNat : Int) (s.wpos.toNat : Int))], pc := s.pc + 1 })
  ∧ ∀ s : State, s.pwpos = none → exec .pscr s = .next { s with run := .faulted (.unwrittenRegister .pwpos) }

/-! ### Control -/

/-- 46_sequencer_loops R116: `JMP t` sets `pc` and nothing else, or raises `BadTarget(t)` when `t >= PROGLEN`. -/
def Obligations.JmpSetsPcOrFaults : Prop :=
  ∀ (t : Byte) (s : State), encode (.jmp t) = 0x0C00 ||| t.setWidth 16
    ∧ (t.toNat < s.cfg.prog.length → exec (.jmp t) s = .next { s with pc := t.toNat })
    ∧ (s.cfg.prog.length ≤ t.toNat → exec (.jmp t) s = .next { s with run := .faulted (.badTarget t) })

/-- 46_sequencer_loops R115: every command but `JMP` that does not fault advances `pc` by one. -/
def Obligations.PcAdvancesByOne : Prop :=
  ∀ (i : Instr) (s t : State), s.cfg.wf = true → (∀ a, i ≠ .jmp a) → s.run = .running → exec i s = .next t →
    t.run = .running → t.pc = s.pc + 1

/-! ### The I/O space -/

/-- 20_memory R37 with R39, R42, R43: the decode of a guest read, for a well-formed configuration. -/
def Obligations.GuestReadDecodesTheAddress : Prop :=
  ∀ s : State, s.cfg.wf = true →
    ioRead s.cfg.chAddr s = .ok (s.rel, s)
    ∧ (∀ i : Fin 8, ioRead s.cfg.kbSel[i] s =
        .ok (s.devKb[i], { s with ev := s.ev ++ [.devRd s.cfg.kbSel[i] s.devKb[i]] }))
    ∧ ioRead s.cfg.joyAddr s = .ok (s.devJoy, { s with ev := s.ev ++ [.devRd s.cfg.joyAddr s.devJoy] })
    ∧ ioRead s.cfg.mouseDataAddr s =
        .ok ((mouseData s).1,
          { (mouseData s).2 with ev := s.ev ++ [.devRd s.cfg.mouseDataAddr (mouseData s).1] })
    ∧ ∀ a, a ≠ s.cfg.chAddr → (∀ i : Fin 8, a ≠ s.cfg.kbSel[i]) → a ≠ s.cfg.joyAddr → a ≠ s.cfg.mouseDataAddr →
        ioRead a s = .error (.unmappedAccess a)

/-- 20_memory R44: a mouse data read returns the register of the latched selector; with any other latch it returns the
free draw, whatever byte that is, and counts it (the count is the model's, notes/assumptions/9.md). -/
def Obligations.MouseDataFollowsTheLatch : Prop :=
  ∀ (s : State) (a : Nat), s.cfg.wf = true → a = s.cfg.mouseDataAddr →
    (s.devMsel = some s.cfg.mselX → ioRead a s = .ok (s.devMx, { s with ev := s.ev ++ [.devRd a s.devMx] }))
    ∧ (s.devMsel = some s.cfg.mselY → ioRead a s = .ok (s.devMy, { s with ev := s.ev ++ [.devRd a s.devMy] }))
    ∧ (s.devMsel = some s.cfg.mselB → ioRead a s = .ok (s.devMb, { s with ev := s.ev ++ [.devRd a s.devMb] }))
    ∧ (s.devMsel ≠ some s.cfg.mselX → s.devMsel ≠ some s.cfg.mselY → s.devMsel ≠ some s.cfg.mselB →
        ioRead a s = .ok (Config.freeByte s.draws,
          { s with draws := s.draws + 1, ev := s.ev ++ [.devRd a (Config.freeByte s.draws)] }))

/-- 20_memory R38, R40: the decode of a guest write. -/
def Obligations.GuestWriteDecodesTheAddress : Prop :=
  ∀ (s : State) (v : Byte), s.cfg.wf = true →
    (s.rel ≠ 0 → ioWrite s.cfg.chAddr v s = .ok { s with tx := some v, rel := 0, ev := s.ev ++ [.ack v] })
    ∧ (s.rel = 0 → ioWrite s.cfg.chAddr v s = .ok { s with tx := some v, out := s.out ++ [v], ev := s.ev ++ [.data v] })
    ∧ ioWrite s.cfg.mouseSelAddr v s =
        .ok { s with devMsel := some v, ev := s.ev ++ [.devWr s.cfg.mouseSelAddr v] }
    ∧ ∀ a, a ≠ s.cfg.chAddr → a ≠ s.cfg.mouseSelAddr → ioWrite a v s = .error (.unmappedAccess a)

/-- 20_memory R44: no command draws a free byte (the model counts the draws, notes/assumptions/9.md); the last arm of the
mouse data read "is never reached by `MSAMP`". -/
def Obligations.NoCommandDrawsAFreeByte : Prop :=
  ∀ (i : Instr) (s t : State), s.cfg.wf = true → exec i s = .next t → t.draws = s.draws

/-! ### Faults -/

/-- 60_exceptions R131: a command that faults changes `RUN` and nothing else. -/
def Obligations.FaultingCommandChangesOnlyRun : Prop :=
  ∀ (i : Instr) (s t : State) (r : FaultReason), s.cfg.wf = true → s.run = .running → exec i s = .next t →
    t.run = .faulted r → t = { s with run := .faulted r }

/-- 60_exceptions R131 (its table), R133: which commands raise which reason; no command raises `UnmappedAccess`, and
`IllegalCommand` is raised at decode only. -/
def Obligations.FaultsComeFromTheListedCommands : Prop :=
  ∀ (i : Instr) (s t : State) (r : FaultReason), s.cfg.wf = true → s.run = .running → exec i s = .next t →
    t.run = .faulted r →
    (∃ a, i = .jmp a ∧ r = .badTarget a ∧ s.cfg.prog.length ≤ a.toNat)
    ∨ (∃ q, r = .unwrittenRegister q ∧ regHolds s q = none
        ∧ ((∃ sel, i = .emith sel) ∨ i = .pstep ∨ i = .render ∨ (∃ k, i = .pbtn k) ∨ i = .pscr))

/-! ### Frames and ownership -/

/-- 10_state R16 to R18, R22, R23, R29: each sampler register and position is written only by its own command. -/
def Obligations.SamplerRegistersHaveOneWriter : Prop :=
  ∀ (i : Instr) (s t : State), s.cfg.wf = true → exec i s = .next t →
    (i ≠ .ksamp → t.kf = s.kf)
    ∧ (i ≠ .jsamp → t.joy = s.joy)
    ∧ (i ≠ .msamp → t.mx = s.mx ∧ t.my = s.my ∧ t.mb = s.mb ∧ t.pmx = s.pmx ∧ t.pmy = s.pmy ∧ t.pmb = s.pmb
        ∧ t.devMsel = s.devMsel)
    ∧ (i ≠ .pstep → t.px = s.px ∧ t.py = s.py ∧ t.ppx = s.ppx ∧ t.ppy = s.ppy ∧ t.wpos = s.wpos ∧ t.pwpos = s.pwpos)

/-- 20_memory R36, 10_state R25: the pixel plane is written by `RENDER` alone, the boxes by `PBTN` and `PSCR` alone, the
channel by `WAIT` and the transmitting commands alone. -/
def Obligations.ScreenAndChannelHaveTheirWriters : Prop :=
  ∀ (i : Instr) (s t : State), s.cfg.wf = true → exec i s = .next t →
    (i ≠ .render → ∀ c, pixLit t.pix c = pixLit s.pix c)
    ∧ ((∀ k, i ≠ .pbtn k) → t.btnBox = s.btnBox)
    ∧ (∀ k l : Fin 4, i = .pbtn k → l ≠ k → t.btnBox[l] = s.btnBox[l])
    ∧ (i ≠ .pscr → t.scrollBox = s.scrollBox)
    ∧ (i ≠ .wait → (∀ c, i ≠ .emitc c) → (∀ b, i ≠ .emithi b) → (∀ r, i ≠ .emith r) →
        t.rel = s.rel ∧ t.tx = s.tx ∧ t.out = s.out)

/-- 10_state R32: a guest step leaves the host-owned device registers alone and never loads `REL` with a new value; a host
step leaves everything of the guest alone. -/
def Obligations.EachAgentKeepsToItsRegisters : Prop :=
  ∀ s t : State, step s = .next t →
    (held s = false → t.devKb = s.devKb ∧ t.devJoy = s.devJoy ∧ t.devMx = s.devMx ∧ t.devMy = s.devMy
      ∧ t.devMb = s.devMb ∧ (t.rel = s.rel ∨ t.rel = 0))
    ∧ (held s = true → t = { s with
        rel := t.rel, devKb := t.devKb, devJoy := t.devJoy, devMx := t.devMx, devMy := t.devMy, devMb := t.devMb,
        ev := t.ev, script := t.script })

/-- 20_memory R41, on the model's own field `script` (DESIGN CHOICE, notes/assumptions/8.md): a guest step leaves the
host's script alone, a step at a hold takes its first step off. -/
def Obligations.HostScriptIsTakenInOrder : Prop :=
  ∀ s t : State, step s = .next t →
    (held s = false → t.script = s.script) ∧ (held s = true → ∃ h, s.script = h :: t.script)

/-- 10_state R31: no step changes the configuration. -/
def Obligations.ConfigurationIsFixedForARun : Prop := ∀ s t : State, step s = .next t → t.cfg = s.cfg

/-- 10_state R27: the histories only grow, and `OUT` grows by the bytes of the new `Data` events. -/
def Obligations.HistoriesOnlyGrow : Prop :=
  ∀ s t : State, step s = .next t → ∃ e, t.ev = s.ev ++ e ∧ t.out = s.out ++ dataBytes e

/-! ### Invariants and reset -/

/-- 10_state R35, a theorem of the spec: every step keeps `pc <= PROGLEN`, the ranges of the positions, the forced bits
of the frame, and `OUT` as the data bytes of `EV`, from any state that has the invariants. The last invariant, the canonical
form of the pixel plane, is not R35's: it belongs to the model's representation (DESIGN CHOICE, notes/assumptions/18.md). -/
def Obligations.StepKeepsTheInvariants : Prop := ∀ s t : State, s.Inv → step s = .next t → t.Inv

/-- 10_state R35: the invariants hold after reset, for every well-formed configuration, all device values and every
canonical pixel plane, and so for `State.reset`. The canonical form, premise and clause, is the model's (DESIGN CHOICE,
notes/assumptions/18.md), and so are the values of `State.reset` the spec leaves open (DESIGN CHOICE, 2.md to 6.md). -/
def Obligations.ResetHasTheInvariants : Prop :=
  (∀ (c : Config) (kb : Vector Byte 8) (joy mx my mb : Byte) (p : PixelPlane) (script : List HostStep), c.wf = true → p.wf →
    (State.resetWith c kb joy mx my mb p script).Inv)
  ∧ State.reset.cfg.wf = true ∧ State.reset.Inv

/-- 10_state R33, 70_reset_and_hazards R141: what reset leaves, for every configuration; the device registers and the
pixel plane, which the spec leaves unspecified, are whatever they are. -/
def Obligations.ResetLeavesTheTableValues : Prop :=
  ∀ (c : Config) (kb : Vector Byte 8) (joy mx my mb : Byte) (p : PixelPlane) (script : List HostStep) (s : State),
    s = State.resetWith c kb joy mx my mb p script →
    s.cfg = c ∧ s.rel = 0 ∧ s.tx = none ∧ s.out = [] ∧ s.ev = [] ∧ (∀ i : Fin 8, s.kf[i] = none) ∧ s.joy = none
    ∧ s.mx = none ∧ s.my = none ∧ s.mb = none ∧ s.pmx = none ∧ s.pmy = none ∧ s.pmb = none
    ∧ s.px = c.pxReset ∧ s.py = c.pyReset ∧ s.ppx = none ∧ s.ppy = none ∧ s.wpos = c.wposReset ∧ s.pwpos = none
    ∧ s.pc = 0 ∧ s.run = .running ∧ (∀ k : Fin 4, s.btnBox[k] = none) ∧ s.scrollBox = none ∧ s.devMsel = none
end

