-- ==== Sys2Proof/Laws/Arith.lean ====
section
/-! SUPPORT. The arithmetic of the block in terms of bit vectors. -/

namespace Sys2Proof.Machine

theorem sub8_eq (a b : Byte) : sub8 a b = a - b := by
  apply BitVec.eq_of_toNat_eq
  simp only [sub8, BitVec.toNat_ofInt, BitVec.toNat_sub]
  have := a.isLt; have := b.isLt
  omega

theorem sint8_eq_toInt (v : Byte) : sint8 v = v.toInt := by
  simp only [sint8, BitVec.toInt_eq_toNat_cond]
  have := v.isLt
  split <;> split <;> omega

theorem signedDelta_eq (c p : Byte) : signedDelta c p = (c - p).toInt := by
  rw [signedDelta, sint8_eq_toInt, sub8_eq]

theorem byteOfInt_toInt (v : Byte) : byteOfInt v.toInt = v := by
  apply BitVec.eq_of_toNat_eq
  simp only [byteOfInt, BitVec.toNat_ofInt, BitVec.toInt_eq_toNat_cond]
  have := v.isLt
  split <;> omega

theorem byteOfInt_signedDelta (c p : Byte) : byteOfInt (signedDelta c p) = c - p := by
  rw [signedDelta_eq, byteOfInt_toInt]

theorem toInt_byte_bounds (v : Byte) : -128 ≤ v.toInt ∧ v.toInt ≤ 127 := by
  rw [BitVec.toInt_eq_toNat_cond]
  have := v.isLt
  split <;> omega

theorem flipY_toNat (raw : Byte) : (flipY raw).toNat = 255 - raw.toNat := by
  simp [flipY, yFlip]; omega

theorem wrapY_bounds (y : Int) : 0 ≤ wrapY y ∧ wrapY y ≤ 192 := by
  have e : wrapY y = if y > 191 then 1 else if y < 0 then 192 else y := rfl
  rw [e]
  split
  · omega
  · split <;> omega

theorem clampWheel_eq (w : Int) : clampWheel w = max 0 (min 191 w) := by
  have e : clampWheel w = if w < 0 then 0 else if w > 191 then 191 else w := rfl
  rw [e]
  split
  · omega
  · split <;> omega

/-- A byte made of an integer in range keeps its value. -/
theorem toNat_ofInt_of_range (v : Int) (h0 : 0 ≤ v) (h1 : v ≤ 255) : ((BitVec.ofInt 8 v).toNat : Int) = v := by
  simp only [BitVec.toNat_ofInt]; omega

end Sys2Proof.Machine
end

