-- ==== Sys2Proof/Laws/State.lean ====
section
/-! SUPPORT. The small lemmas of the state updates every command uses: one per field of `State` for `raise`, `advance`
and `emitEvent`, each true by definition. -/

namespace Sys2Proof.Machine

/-! ### `raise` -/

@[simp] theorem raise_cfg (f : FaultReason) (s : State) : (raise f s).cfg = s.cfg := rfl
@[simp] theorem raise_rel (f : FaultReason) (s : State) : (raise f s).rel = s.rel := rfl
@[simp] theorem raise_tx (f : FaultReason) (s : State) : (raise f s).tx = s.tx := rfl
@[simp] theorem raise_kf (f : FaultReason) (s : State) : (raise f s).kf = s.kf := rfl
@[simp] theorem raise_joy (f : FaultReason) (s : State) : (raise f s).joy = s.joy := rfl
@[simp] theorem raise_mx (f : FaultReason) (s : State) : (raise f s).mx = s.mx := rfl
@[simp] theorem raise_my (f : FaultReason) (s : State) : (raise f s).my = s.my := rfl
@[simp] theorem raise_mb (f : FaultReason) (s : State) : (raise f s).mb = s.mb := rfl
@[simp] theorem raise_pmx (f : FaultReason) (s : State) : (raise f s).pmx = s.pmx := rfl
@[simp] theorem raise_pmy (f : FaultReason) (s : State) : (raise f s).pmy = s.pmy := rfl
@[simp] theorem raise_pmb (f : FaultReason) (s : State) : (raise f s).pmb = s.pmb := rfl
@[simp] theorem raise_px (f : FaultReason) (s : State) : (raise f s).px = s.px := rfl
@[simp] theorem raise_py (f : FaultReason) (s : State) : (raise f s).py = s.py := rfl
@[simp] theorem raise_ppx (f : FaultReason) (s : State) : (raise f s).ppx = s.ppx := rfl
@[simp] theorem raise_ppy (f : FaultReason) (s : State) : (raise f s).ppy = s.ppy := rfl
@[simp] theorem raise_wpos (f : FaultReason) (s : State) : (raise f s).wpos = s.wpos := rfl
@[simp] theorem raise_pwpos (f : FaultReason) (s : State) : (raise f s).pwpos = s.pwpos := rfl
@[simp] theorem raise_pc (f : FaultReason) (s : State) : (raise f s).pc = s.pc := rfl
@[simp] theorem raise_run (f : FaultReason) (s : State) : (raise f s).run = .faulted f := rfl
@[simp] theorem raise_pix (f : FaultReason) (s : State) : (raise f s).pix = s.pix := rfl
@[simp] theorem raise_btnBox (f : FaultReason) (s : State) : (raise f s).btnBox = s.btnBox := rfl
@[simp] theorem raise_scrollBox (f : FaultReason) (s : State) : (raise f s).scrollBox = s.scrollBox := rfl
@[simp] theorem raise_out (f : FaultReason) (s : State) : (raise f s).out = s.out := rfl
@[simp] theorem raise_ev (f : FaultReason) (s : State) : (raise f s).ev = s.ev := rfl
@[simp] theorem raise_devKb (f : FaultReason) (s : State) : (raise f s).devKb = s.devKb := rfl
@[simp] theorem raise_devJoy (f : FaultReason) (s : State) : (raise f s).devJoy = s.devJoy := rfl
@[simp] theorem raise_devMx (f : FaultReason) (s : State) : (raise f s).devMx = s.devMx := rfl
@[simp] theorem raise_devMy (f : FaultReason) (s : State) : (raise f s).devMy = s.devMy := rfl
@[simp] theorem raise_devMb (f : FaultReason) (s : State) : (raise f s).devMb = s.devMb := rfl
@[simp] theorem raise_devMsel (f : FaultReason) (s : State) : (raise f s).devMsel = s.devMsel := rfl
@[simp] theorem raise_script (f : FaultReason) (s : State) : (raise f s).script = s.script := rfl
@[simp] theorem raise_draws (f : FaultReason) (s : State) : (raise f s).draws = s.draws := rfl

/-! ### `advance` -/

@[simp] theorem advance_cfg (s : State) : (advance s).cfg = s.cfg := rfl
@[simp] theorem advance_rel (s : State) : (advance s).rel = s.rel := rfl
@[simp] theorem advance_tx (s : State) : (advance s).tx = s.tx := rfl
@[simp] theorem advance_kf (s : State) : (advance s).kf = s.kf := rfl
@[simp] theorem advance_joy (s : State) : (advance s).joy = s.joy := rfl
@[simp] theorem advance_mx (s : State) : (advance s).mx = s.mx := rfl
@[simp] theorem advance_my (s : State) : (advance s).my = s.my := rfl
@[simp] theorem advance_mb (s : State) : (advance s).mb = s.mb := rfl
@[simp] theorem advance_pmx (s : State) : (advance s).pmx = s.pmx := rfl
@[simp] theorem advance_pmy (s : State) : (advance s).pmy = s.pmy := rfl
@[simp] theorem advance_pmb (s : State) : (advance s).pmb = s.pmb := rfl
@[simp] theorem advance_px (s : State) : (advance s).px = s.px := rfl
@[simp] theorem advance_py (s : State) : (advance s).py = s.py := rfl
@[simp] theorem advance_ppx (s : State) : (advance s).ppx = s.ppx := rfl
@[simp] theorem advance_ppy (s : State) : (advance s).ppy = s.ppy := rfl
@[simp] theorem advance_wpos (s : State) : (advance s).wpos = s.wpos := rfl
@[simp] theorem advance_pwpos (s : State) : (advance s).pwpos = s.pwpos := rfl
@[simp] theorem advance_pc (s : State) : (advance s).pc = s.pc + 1 := rfl
@[simp] theorem advance_run (s : State) : (advance s).run = s.run := rfl
@[simp] theorem advance_pix (s : State) : (advance s).pix = s.pix := rfl
@[simp] theorem advance_btnBox (s : State) : (advance s).btnBox = s.btnBox := rfl
@[simp] theorem advance_scrollBox (s : State) : (advance s).scrollBox = s.scrollBox := rfl
@[simp] theorem advance_out (s : State) : (advance s).out = s.out := rfl
@[simp] theorem advance_ev (s : State) : (advance s).ev = s.ev := rfl
@[simp] theorem advance_devKb (s : State) : (advance s).devKb = s.devKb := rfl
@[simp] theorem advance_devJoy (s : State) : (advance s).devJoy = s.devJoy := rfl
@[simp] theorem advance_devMx (s : State) : (advance s).devMx = s.devMx := rfl
@[simp] theorem advance_devMy (s : State) : (advance s).devMy = s.devMy := rfl
@[simp] theorem advance_devMb (s : State) : (advance s).devMb = s.devMb := rfl
@[simp] theorem advance_devMsel (s : State) : (advance s).devMsel = s.devMsel := rfl
@[simp] theorem advance_script (s : State) : (advance s).script = s.script := rfl
@[simp] theorem advance_draws (s : State) : (advance s).draws = s.draws := rfl

/-! ### `emitEvent` -/

@[simp] theorem emitEvent_cfg (e : Event) (s : State) : (emitEvent e s).cfg = s.cfg := rfl
@[simp] theorem emitEvent_rel (e : Event) (s : State) : (emitEvent e s).rel = s.rel := rfl
@[simp] theorem emitEvent_tx (e : Event) (s : State) : (emitEvent e s).tx = s.tx := rfl
@[simp] theorem emitEvent_kf (e : Event) (s : State) : (emitEvent e s).kf = s.kf := rfl
@[simp] theorem emitEvent_joy (e : Event) (s : State) : (emitEvent e s).joy = s.joy := rfl
@[simp] theorem emitEvent_mx (e : Event) (s : State) : (emitEvent e s).mx = s.mx := rfl
@[simp] theorem emitEvent_my (e : Event) (s : State) : (emitEvent e s).my = s.my := rfl
@[simp] theorem emitEvent_mb (e : Event) (s : State) : (emitEvent e s).mb = s.mb := rfl
@[simp] theorem emitEvent_pmx (e : Event) (s : State) : (emitEvent e s).pmx = s.pmx := rfl
@[simp] theorem emitEvent_pmy (e : Event) (s : State) : (emitEvent e s).pmy = s.pmy := rfl
@[simp] theorem emitEvent_pmb (e : Event) (s : State) : (emitEvent e s).pmb = s.pmb := rfl
@[simp] theorem emitEvent_px (e : Event) (s : State) : (emitEvent e s).px = s.px := rfl
@[simp] theorem emitEvent_py (e : Event) (s : State) : (emitEvent e s).py = s.py := rfl
@[simp] theorem emitEvent_ppx (e : Event) (s : State) : (emitEvent e s).ppx = s.ppx := rfl
@[simp] theorem emitEvent_ppy (e : Event) (s : State) : (emitEvent e s).ppy = s.ppy := rfl
@[simp] theorem emitEvent_wpos (e : Event) (s : State) : (emitEvent e s).wpos = s.wpos := rfl
@[simp] theorem emitEvent_pwpos (e : Event) (s : State) : (emitEvent e s).pwpos = s.pwpos := rfl
@[simp] theorem emitEvent_pc (e : Event) (s : State) : (emitEvent e s).pc = s.pc := rfl
@[simp] theorem emitEvent_run (e : Event) (s : State) : (emitEvent e s).run = s.run := rfl
@[simp] theorem emitEvent_pix (e : Event) (s : State) : (emitEvent e s).pix = s.pix := rfl
@[simp] theorem emitEvent_btnBox (e : Event) (s : State) : (emitEvent e s).btnBox = s.btnBox := rfl
@[simp] theorem emitEvent_scrollBox (e : Event) (s : State) : (emitEvent e s).scrollBox = s.scrollBox := rfl
@[simp] theorem emitEvent_out (e : Event) (s : State) : (emitEvent e s).out = s.out := rfl
@[simp] theorem emitEvent_ev (e : Event) (s : State) : (emitEvent e s).ev = s.ev ++ [e] := rfl
@[simp] theorem emitEvent_devKb (e : Event) (s : State) : (emitEvent e s).devKb = s.devKb := rfl
@[simp] theorem emitEvent_devJoy (e : Event) (s : State) : (emitEvent e s).devJoy = s.devJoy := rfl
@[simp] theorem emitEvent_devMx (e : Event) (s : State) : (emitEvent e s).devMx = s.devMx := rfl
@[simp] theorem emitEvent_devMy (e : Event) (s : State) : (emitEvent e s).devMy = s.devMy := rfl
@[simp] theorem emitEvent_devMb (e : Event) (s : State) : (emitEvent e s).devMb = s.devMb := rfl
@[simp] theorem emitEvent_devMsel (e : Event) (s : State) : (emitEvent e s).devMsel = s.devMsel := rfl
@[simp] theorem emitEvent_script (e : Event) (s : State) : (emitEvent e s).script = s.script := rfl
@[simp] theorem emitEvent_draws (e : Event) (s : State) : (emitEvent e s).draws = s.draws := rfl

end Sys2Proof.Machine
end

