-- ==== Sys2Proof/Laws/Pixels.lean ====
section
/-! SUPPORT. The pixel plane: a write is read back, leaves every other pixel alone and keeps the canonical form; and
folds of drawing calls. -/

namespace Sys2Proof.Machine

theorem before_irrefl (a : Pixel) : a.before a = false := by simp [Pixel.before]

theorem before_trans {a b c : Pixel} (h : a.before b = true) (k : b.before c = true) : a.before c = true := by
  simp only [Pixel.before, Bool.or_eq_true, Bool.and_eq_true, decide_eq_true_eq] at *
  omega

theorem before_total {a b : Pixel} (hne : a ≠ b) (h : a.before b = false) : b.before a = true := by
  have : ¬ (a.x = b.x ∧ a.y = b.y) := fun ⟨hx, hy⟩ => hne (by cases a; cases b; simp_all)
  simp only [Pixel.before, Bool.or_eq_true, Bool.and_eq_true, Bool.or_eq_false_iff, Bool.and_eq_false_iff,
    decide_eq_true_eq, decide_eq_false_iff_not] at *
  omega

theorem mem_pixInsert (c d : Pixel) (p : PixelPlane) : d ∈ pixInsert c p ↔ d = c ∨ d ∈ p := by
  induction p with
  | nil => simp [pixInsert]
  | cons e p ih =>
    simp only [pixInsert]
    split
    · subst e; simp
    · split
      · simp
      · simp only [List.mem_cons, ih]; tauto

theorem mem_pixErase (c d : Pixel) (p : PixelPlane) : d ∈ pixErase c p ↔ d ∈ p ∧ d ≠ c := by
  simp [pixErase]

theorem pixLit_iff (p : PixelPlane) (c : Pixel) : pixLit p c = true ↔ c ∈ p := by simp [pixLit]

theorem pixLit_insert (c d : Pixel) (p : PixelPlane) : pixLit (pixInsert c p) d = (decide (d = c) || pixLit p d) := by
  rw [Bool.eq_iff_iff]; simp [pixLit_iff, mem_pixInsert]

theorem pixLit_erase (c d : Pixel) (p : PixelPlane) : pixLit (pixErase c p) d = (pixLit p d && !decide (d = c)) := by
  rw [Bool.eq_iff_iff]; simp [pixLit_iff, mem_pixErase]

theorem wf_pixInsert (c : Pixel) (p : PixelPlane) (h : p.wf) : (pixInsert c p).wf := by
  induction p with
  | nil => simp [pixInsert]
  | cons e p ih =>
    obtain ⟨he, hp⟩ := List.pairwise_cons.mp h
    simp only [pixInsert]
    split
    · exact h
    · rename_i hne
      split
      · rename_i hb
        refine List.pairwise_cons.mpr ⟨fun d hd => ?_, h⟩
        rcases List.mem_cons.mp hd with rfl | hd
        · exact hb
        · exact before_trans hb (he d hd)
      · rename_i hb
        refine List.pairwise_cons.mpr ⟨fun d hd => ?_, ih hp⟩
        rcases (mem_pixInsert c d p).mp hd with rfl | hd
        · exact before_total hne (by simpa using hb)
        · exact he d hd

theorem wf_pixErase (c : Pixel) (p : PixelPlane) (h : p.wf) : (pixErase c p).wf := List.Pairwise.filter _ h

/-- Two canonical planes with the same lit pixels are equal. -/
theorem wf_ext {p q : PixelPlane} (hp : p.wf) (hq : q.wf) (h : ∀ c, pixLit p c = pixLit q c) : p = q := by
  have hperm : p.Perm q := by
    refine (List.perm_ext_iff_of_nodup ?_ ?_).mpr fun c => by rw [← pixLit_iff, ← pixLit_iff, h]
    · exact hp.imp fun {a b} hab => by rintro rfl; simp [before_irrefl] at hab
    · exact hq.imp fun {a b} hab => by rintro rfl; simp [before_irrefl] at hab
  exact hperm.eq_of_pairwise (fun a b _ _ hab hba => by
    have := before_trans hab hba; simp [before_irrefl] at this) hp hq

/-! ### Folds of drawing calls -/

/-- What a run of `SetPixel` calls does: nothing but the pixel plane and the events. -/
theorem foldl_setPixel (l : List Pixel) (s : State) :
    l.foldl (fun t c => setPixel c t) s =
      { s with pix := l.foldl (fun p c => pixInsert c p) s.pix, ev := s.ev ++ l.map fun c => .draw (.setPixel c) } := by
  induction l generalizing s with
  | nil => simp
  | cons c l ih => rw [List.foldl_cons, ih]; simp [setPixel, emitEvent]

/-- What a run of `ClearPixel` calls does: nothing but the pixel plane and the events. -/
theorem foldl_clearPixel (l : List Pixel) (s : State) :
    l.foldl (fun t c => clearPixel c t) s =
      { s with pix := l.foldl (fun p c => pixErase c p) s.pix, ev := s.ev ++ l.map fun c => .draw (.clearPixel c) } := by
  induction l generalizing s with
  | nil => simp
  | cons c l ih => rw [List.foldl_cons, ih]; simp [clearPixel, emitEvent]

theorem pixLit_foldl_insert (l : List Pixel) (p : PixelPlane) (d : Pixel) :
    pixLit (l.foldl (fun p c => pixInsert c p) p) d = (decide (d ∈ l) || pixLit p d) := by
  induction l generalizing p with
  | nil => simp
  | cons c l ih =>
    rw [List.foldl_cons, ih, pixLit_insert, Bool.eq_iff_iff]
    simp only [Bool.or_eq_true, decide_eq_true_eq, List.mem_cons]; tauto

theorem pixLit_foldl_erase (l : List Pixel) (p : PixelPlane) (d : Pixel) :
    pixLit (l.foldl (fun p c => pixErase c p) p) d = (pixLit p d && !decide (d ∈ l)) := by
  induction l generalizing p with
  | nil => simp
  | cons c l ih =>
    rw [List.foldl_cons, ih, pixLit_erase, Bool.eq_iff_iff]
    simp only [Bool.and_eq_true, Bool.not_eq_true', decide_eq_false_iff_not, List.mem_cons]; tauto

theorem wf_foldl_insert (l : List Pixel) (p : PixelPlane) (h : p.wf) :
    PixelPlane.wf (l.foldl (fun p c => pixInsert c p) p) := by
  induction l generalizing p with
  | nil => exact h
  | cons c l ih => exact ih _ (wf_pixInsert c p h)

theorem wf_foldl_erase (l : List Pixel) (p : PixelPlane) (h : p.wf) :
    PixelPlane.wf (l.foldl (fun p c => pixErase c p) p) := by
  induction l generalizing p with
  | nil => exact h
  | cons c l ih => exact ih _ (wf_pixErase c p h)

end Sys2Proof.Machine
end

