-- ==== Sys2Proof/Laws/Ops.lean ====
section
/-! SUPPORT. One lemma per shared operation that says once what it can do. -/

namespace Sys2Proof.Machine

/-! ### Completion -/

@[simp] theorem complete_ok (s t : State) : complete s (.ok t) = .next t := rfl

@[simp] theorem complete_error (s : State) (f : FaultReason) : complete s (.error f) = .next (raise f s) := rfl

/-- A command that completes answers with its effect, or with a fault raised at the state before it. -/
theorem complete_next {s t : State} {e : Except FaultReason State} (h : complete s e = .next t) :
    e = .ok t ∨ ∃ f, e = .error f ∧ t = raise f s := by
  cases e with
  | ok u => left; simpa using h
  | error f => right; exact ⟨f, rfl, by simpa using h.symm⟩

/-! ### The channel -/

theorem ioRead_channel (s : State) : ioRead s.cfg.chAddr s = .ok (s.rel, s) := by simp [ioRead]

theorem ioWrite_channel (b : Byte) (s : State) : ioWrite s.cfg.chAddr b s = .ok (channelWrite b s) := by simp [ioWrite]

theorem channelWrite_data {s : State} (b : Byte) (h : s.rel = 0) :
    channelWrite b s = { s with tx := some b, out := s.out ++ [b], ev := s.ev ++ [.data b] } := by
  simp [channelWrite, h, emitEvent]

theorem channelWrite_ack {s : State} (b : Byte) (h : s.rel ≠ 0) :
    channelWrite b s = { s with tx := some b, rel := 0, ev := s.ev ++ [.ack b] } := by
  rw [channelWrite, if_pos h]; rfl

@[simp] theorem channelWrite_cfg (b : Byte) (s : State) : (channelWrite b s).cfg = s.cfg := by
  unfold channelWrite; split <;> rfl

@[simp] theorem channelWrite_rel (b : Byte) (s : State) : (channelWrite b s).rel = 0 := by
  unfold channelWrite; split
  · rfl
  · rename_i h; simpa using h

/-- Two channel writes and the advance: all that `emit(byte)` does. -/
theorem transmitHex_eq (b : Byte) (s : State) :
    transmitHex b s =
      .ok (advance (channelWrite (hexChar (lowNibble b)) (channelWrite (hexChar (highNibble b)) s))) := by
  simp [transmitHex, ioWrite, bind, Except.bind, pure, Except.pure]

/-! ### Addresses of a well-formed configuration -/

/-- What the distinctness check of a configuration gives. -/
theorem wf_distinct {c : Config} (h : c.wf = true) :
    c.mainAddrs.Nodup ∧ c.mouseDataAddr ∉ c.chAddr :: c.joyAddr :: c.kbSel.toList := by
  simp only [Config.wf, Config.addrsDistinct, Bool.and_eq_true, decide_eq_true_eq] at h
  exact h.1.1.1.2

theorem wf_selectors {c : Config} (h : c.wf = true) : c.mselX ≠ c.mselY ∧ c.mselX ≠ c.mselB ∧ c.mselY ≠ c.mselB := by
  simp only [Config.wf, Config.selectorsDistinct, Bool.and_eq_true, decide_eq_true_eq] at h
  exact ⟨h.1.1.2.1.1, h.1.1.2.1.2, h.1.1.2.2⟩

theorem kbSel_mem (c : Config) (i : Fin 8) : c.kbSel[i] ∈ c.kbSel.toList := by simp

theorem kbSel_inj {c : Config} (h : c.wf = true) {i j : Fin 8} (e : c.kbSel[i] = c.kbSel[j]) : i = j := by
  have hn : c.kbSel.toList.Nodup := by
    have := (wf_distinct h).1
    simp only [Config.mainAddrs, List.nodup_cons] at this
    exact this.2.2.2
  have hi : i.val < c.kbSel.toList.length := by simp
  have hj : j.val < c.kbSel.toList.length := by simp
  exact Fin.ext ((List.Nodup.getElem_inj_iff hn (hi := hi) (hj := hj)).mp (by simpa using e))

theorem mem_rowOrder (i : Fin 8) : i ∈ rowOrder := by revert i; decide

theorem keyboardRow_kbSel {c : Config} (h : c.wf = true) (i : Fin 8) : keyboardRow c c.kbSel[i] = some i := by
  cases hr : keyboardRow c c.kbSel[i] with
  | none =>
    have := List.find?_eq_none.mp hr i (mem_rowOrder i)
    simp at this
  | some j =>
    have hj := List.find?_some hr
    rw [kbSel_inj h (beq_iff_eq.mp hj)]

theorem keyboardRow_none {c : Config} {a : Nat} (h : a ∉ c.kbSel.toList) : keyboardRow c a = none := by
  refine List.find?_eq_none.mpr fun i _ => ?_
  have := kbSel_mem c i
  simp only [beq_iff_eq]
  rintro rfl
  exact h this

theorem chAddr_ne_kbSel {c : Config} (h : c.wf = true) (i : Fin 8) : c.kbSel[i] ≠ c.chAddr := by
  have := (wf_distinct h).1
  simp only [Config.mainAddrs, List.nodup_cons, List.mem_cons, not_or] at this
  intro e
  exact this.1.2.2 (e ▸ kbSel_mem c i)

theorem joyAddr_ne_chAddr {c : Config} (h : c.wf = true) : c.joyAddr ≠ c.chAddr := by
  have := (wf_distinct h).1
  simp only [Config.mainAddrs, List.nodup_cons, List.mem_cons, not_or] at this
  exact fun e => this.1.1 e.symm

theorem mouseSelAddr_ne_chAddr {c : Config} (h : c.wf = true) : c.mouseSelAddr ≠ c.chAddr := by
  have := (wf_distinct h).1
  simp only [Config.mainAddrs, List.nodup_cons, List.mem_cons, not_or] at this
  exact fun e => this.1.2.1 e.symm

theorem keyboardRow_joyAddr {c : Config} (h : c.wf = true) : keyboardRow c c.joyAddr = none := by
  have := (wf_distinct h).1
  simp only [Config.mainAddrs, List.nodup_cons, List.mem_cons, not_or] at this
  exact keyboardRow_none this.2.1.2

theorem mouseDataAddr_ne {c : Config} (h : c.wf = true) :
    c.mouseDataAddr ≠ c.chAddr ∧ keyboardRow c c.mouseDataAddr = none ∧ c.mouseDataAddr ≠ c.joyAddr := by
  have := (wf_distinct h).2
  simp only [List.mem_cons, not_or] at this
  exact ⟨this.1, keyboardRow_none this.2.2, this.2.1⟩

/-! ### Device accesses -/

theorem ioRead_keyboard {s : State} (h : s.cfg.wf = true) (i : Fin 8) :
    ioRead s.cfg.kbSel[i] s = .ok (s.devKb[i], emitEvent (.devRd s.cfg.kbSel[i] s.devKb[i]) s) := by
  simp only [ioRead, if_neg (chAddr_ne_kbSel h i), keyboardRow_kbSel h i, deviceRead]

theorem ioRead_joystick {s : State} (h : s.cfg.wf = true) :
    ioRead s.cfg.joyAddr s = .ok (s.devJoy, emitEvent (.devRd s.cfg.joyAddr s.devJoy) s) := by
  simp only [ioRead, if_neg (joyAddr_ne_chAddr h), keyboardRow_joyAddr h, deviceRead, if_true]

theorem ioRead_mouse {s : State} (h : s.cfg.wf = true) :
    ioRead s.cfg.mouseDataAddr s =
      .ok ((mouseData s).1, emitEvent (.devRd s.cfg.mouseDataAddr (mouseData s).1) (mouseData s).2) := by
  obtain ⟨h1, h2, h3⟩ := mouseDataAddr_ne h
  simp only [ioRead, if_neg h1, h2, if_neg h3, deviceRead, if_true]

theorem ioWrite_mouseSel {s : State} (h : s.cfg.wf = true) (v : Byte) :
    ioWrite s.cfg.mouseSelAddr v s = .ok (emitEvent (.devWr s.cfg.mouseSelAddr v) { s with devMsel := some v }) := by
  simp only [ioWrite, if_neg (mouseSelAddr_ne_chAddr h), if_true]

/-- One half-row of the keyboard, for a well-formed configuration. -/
theorem sampleRow_eq {s : State} (h : s.cfg.wf = true) (i : Fin 8) :
    sampleRow s i = .ok { s with
      kf := s.kf.set i (some (maskRow s.devKb[i])),
      ev := s.ev ++ [.devRd s.cfg.kbSel[i] s.devKb[i]] } := by
  simp only [sampleRow, ioRead_keyboard h i]
  rfl

/-- The state after a selector write and the data read that returned `v`. -/
def afterMouseRead (selector v : Byte) (s : State) : State :=
  { s with
    devMsel := some selector
    ev := s.ev ++ [.devWr s.cfg.mouseSelAddr selector, .devRd s.cfg.mouseDataAddr v] }

@[simp] theorem afterMouseRead_cfg (a v : Byte) (s : State) : (afterMouseRead a v s).cfg = s.cfg := rfl

/-- The X register: a selector write and a data read, for a well-formed configuration (44_mouse R83). -/
theorem mouseRegister_x {s : State} {a : Byte} (h : s.cfg.wf = true) (ha : a = s.cfg.mselX) :
    mouseRegister a s = .ok (s.devMx, afterMouseRead a s.devMx s) := by
  subst ha
  simp only [mouseRegister, ioWrite_mouseSel h, bind, Except.bind]
  rw [ioRead_mouse (by simpa using h)]
  simp [mouseData, emitEvent, afterMouseRead]

/-- The Y register, raw. -/
theorem mouseRegister_y {s : State} {a : Byte} (h : s.cfg.wf = true) (ha : a = s.cfg.mselY) :
    mouseRegister a s = .ok (s.devMy, afterMouseRead a s.devMy s) := by
  subst ha
  have := wf_selectors h
  simp only [mouseRegister, ioWrite_mouseSel h, bind, Except.bind]
  rw [ioRead_mouse (by simpa using h)]
  simp [mouseData, emitEvent, afterMouseRead, this.1.symm]

/-- The status register. -/
theorem mouseRegister_b {s : State} {a : Byte} (h : s.cfg.wf = true) (ha : a = s.cfg.mselB) :
    mouseRegister a s = .ok (s.devMb, afterMouseRead a s.devMb s) := by
  subst ha
  have := wf_selectors h
  simp only [mouseRegister, ioWrite_mouseSel h, bind, Except.bind]
  rw [ioRead_mouse (by simpa using h)]
  simp [mouseData, emitEvent, afterMouseRead, this.2.1.symm, this.2.2.symm]

/-! ### Operands -/

theorem useReg_some {s : State} {r : Reg} {v : Byte} (h : regHolds s r = some v) : useReg s r = .ok v := by
  simp [useReg, h]

theorem useReg_none {s : State} {r : Reg} (h : regHolds s r = none) : useReg s r = .error (.unwrittenRegister r) := by
  simp [useReg, h]

theorem useReg_error {s : State} {r : Reg} {f : FaultReason} (h : useReg s r = .error f) :
    f = .unwrittenRegister r ∧ regHolds s r = none := by
  unfold useReg at h
  split at h
  · cases h
  · rename_i hn; exact ⟨by simpa using h.symm, hn⟩

/-! ### The blitter -/

/-- All a blit does: the two passes over the plane, and one event per call. -/
theorem blit_eq (p n : Pixel) (s : State) :
    blit p n s = { s with
      pix := (setCells s.cfg n).foldl (fun q c => pixInsert c q)
        ((clearedCells s.cfg p n).foldl (fun q c => pixErase c q) s.pix),
      ev := s.ev ++ (clearedCells s.cfg p n).map (fun c => .draw (.clearPixel c))
        ++ (setCells s.cfg n).map (fun c => .draw (.setPixel c)) } := by
  simp only [blit, foldl_setPixel, foldl_clearPixel]

/-- The footprint is exactly the cells that pass the bounds check (45_cursor_renderer R100). -/
theorem mem_footprint (a c : Pixel) :
    c ∈ footprint a ↔ a.x ≤ c.x ∧ c.x ≤ a.x + 7 ∧ a.y ≤ c.y ∧ c.y ≤ a.y + 7 := by
  simp only [footprint, List.mem_flatMap, List.mem_range, List.mem_map]
  constructor
  · rintro ⟨j, hj, i, hi, rfl⟩
    refine ⟨?_, ?_, ?_, ?_⟩ <;> simp only <;> omega
  · rintro ⟨h1, h2, h3, h4⟩
    refine ⟨(c.y - a.y).toNat, by omega, (c.x - a.x).toNat, by omega, ?_⟩
    cases c
    simp only [Pixel.mk.injEq]
    simp only at h1 h2 h3 h4
    omega

/-- A member of a shape lies in its footprint. -/
theorem mem_footprint_of_member {cfg : Config} {a c : Pixel} (h : member cfg a c = true) : c ∈ footprint a := by
  rw [mem_footprint]
  simp only [member] at h
  split at h
  · cases h
  · rename_i hb
    simp only [Bool.or_eq_true, decide_eq_true_eq, not_or] at hb
    omega

/-- The cells pass 2 sets are exactly the shape (45_cursor_renderer R101, R102). -/
theorem mem_setCells (cfg : Config) (n c : Pixel) : c ∈ setCells cfg n ↔ member cfg n c = true := by
  simp only [setCells, List.mem_filter]
  exact ⟨fun h => h.2, fun h => ⟨mem_footprint_of_member h, h⟩⟩

/-- The cells pass 1 clears are exactly the previous shape minus the new one (45_cursor_renderer R102). -/
theorem mem_clearedCells (cfg : Config) (p n c : Pixel) :
    c ∈ clearedCells cfg p n ↔ member cfg p c = true ∧ member cfg n c = false := by
  simp only [clearedCells, List.mem_filter, Bool.and_eq_true, Bool.not_eq_true']
  exact ⟨fun h => h.2, fun h => ⟨mem_footprint_of_member h.1, h⟩⟩

/-- A blit keeps the canonical form of the plane. -/
theorem blit_keeps_wf (p n : Pixel) (s : State) (h : s.pix.wf) : (blit p n s).pix.wf := by
  rw [blit_eq]; exact wf_foldl_insert _ _ (wf_foldl_erase _ _ h)

end Sys2Proof.Machine
end

