-- ==== Sys2Proof/Laws/PerInstr.lean ====
section
/-! SUPPORT. The per-instruction family `EncodedForm`: the word of every command carries the fixed bits of its row of
spec/opcode_table.json. -/

namespace Sys2Proof.Laws

/-- A row of spec/opcode_table.json: its mnemonic, the mask of its fixed bits and their values. -/
structure TableRow where
  mnemonic : String
  fixedMask : Word
  fixedBits : Word
deriving DecidableEq, Repr

/-- The table's row of a command. -/
def tableRow : Instr → TableRow
  | .wait => ⟨"WAIT", 0xFFFF, 0x0100⟩
  | .emitc _ => ⟨"EMITC", 0xFF00, 0x0200⟩
  | .emithi _ => ⟨"EMITHI", 0xFF00, 0x0300⟩
  | .emith _ => ⟨"EMITH", 0xFFE0, 0x0400⟩
  | .ksamp => ⟨"KSAMP", 0xFFFF, 0x0500⟩
  | .jsamp => ⟨"JSAMP", 0xFFFF, 0x0600⟩
  | .msamp => ⟨"MSAMP", 0xFFFF, 0x0700⟩
  | .pstep => ⟨"PSTEP", 0xFFFF, 0x0800⟩
  | .render => ⟨"RENDER", 0xFFFF, 0x0900⟩
  | .pbtn _ => ⟨"PBTN", 0xFFFC, 0x0A00⟩
  | .pscr => ⟨"PSCR", 0xFFFF, 0x0B00⟩
  | .jmp _ => ⟨"JMP", 0xFF00, 0x0C00⟩

/-- The family's statement: the fixed bits of the row stand in the encoded word. -/
def EncodedForm.Statement (i : Instr) : Prop := encode i &&& (tableRow i).fixedMask = (tableRow i).fixedBits

theorem EncodedForm.wait : EncodedForm.Statement .wait := by unfold EncodedForm.Statement; decide

theorem EncodedForm.emitc (c : Byte) : EncodedForm.Statement (.emitc c) := by
  unfold EncodedForm.Statement; revert c; decide

theorem EncodedForm.emithi (b : Byte) : EncodedForm.Statement (.emithi b) := by
  unfold EncodedForm.Statement; revert b; decide

theorem EncodedForm.emith (r : RegSel) : EncodedForm.Statement (.emith r) := by
  unfold EncodedForm.Statement
  rcases r with r | _ | _ | _
  · cases r with
    | kf i => revert i; decide
    | _ => decide
  all_goals decide

theorem EncodedForm.ksamp : EncodedForm.Statement .ksamp := by unfold EncodedForm.Statement; decide

theorem EncodedForm.jsamp : EncodedForm.Statement .jsamp := by unfold EncodedForm.Statement; decide

theorem EncodedForm.msamp : EncodedForm.Statement .msamp := by unfold EncodedForm.Statement; decide

theorem EncodedForm.pstep : EncodedForm.Statement .pstep := by unfold EncodedForm.Statement; decide

theorem EncodedForm.render : EncodedForm.Statement .render := by unfold EncodedForm.Statement; decide

theorem EncodedForm.pbtn (k : Fin 4) : EncodedForm.Statement (.pbtn k) := by
  unfold EncodedForm.Statement; revert k; decide

theorem EncodedForm.pscr : EncodedForm.Statement .pscr := by unfold EncodedForm.Statement; decide

theorem EncodedForm.jmp (t : Byte) : EncodedForm.Statement (.jmp t) := by
  unfold EncodedForm.Statement; revert t; decide

end Sys2Proof.Laws
end

