-- ==== Sys2Proof/Laws/Step.lean ====
section
/-! SUPPORT. What a step can do, said once: the inversion of `step` and of the host's turn, and what a hold is. -/

namespace Sys2Proof.Machine

/-- The pixel plane of the reset state is canonical. -/
theorem reset_pix_wf : State.reset.pix.wf := List.Pairwise.nil

/-- A hold, field by field (20_memory R41). -/
theorem held_iff (s : State) : held s = true ↔ s.run = .running ∧ fetch s = .command .wait ∧ s.rel = 0 := by
  simp [held, and_assoc]

/-- What is fetched where a word stands. -/
theorem fetch_of_word {s : State} {w : Word} (h : s.cfg.prog[s.pc]? = some w) : fetch s = decoded w := by simp [fetch, h]

/-- Where a command or an illegal word is fetched, `pc` is below `PROGLEN`. -/
theorem pc_lt_of_fetch_command {s : State} {i : Instr} (h : fetch s = .command i) : s.pc < s.cfg.progLen := by
  unfold fetch at h
  split at h
  · rename_i w hw; exact (List.getElem?_eq_some_iff.mp hw).1
  · split at h <;> cases h

theorem decoded_command {w : Word} {i : Instr} (h : decode w = .ok i) : decoded w = .command i := by simp [decoded, h]

theorem decoded_illegal {w : Word} {e : DecodeError} (h : decode w = .error e) : decoded w = .illegal w := by
  simp [decoded, h]

/-- Everything the host's turn can do. -/
theorem hostTurn_next {s t : State} (h : hostTurn s = .next t) :
    (∃ v rest, s.script = .release v :: rest ∧ v ≠ 0 ∧ t = hostRelease v { s with script := rest })
      ∨ (∃ cs rest, s.script = .dev cs :: rest ∧ t = hostDev cs { s with script := rest })
      ∨ ∃ rest, s.script = .observe :: rest ∧ t = { s with script := rest } := by
  unfold hostTurn at h
  split at h
  · cases h
  · rename_i v rest hs
    split at h
    · cases h
    · rename_i hv; left; exact ⟨v, rest, hs, hv, by simpa using h.symm⟩
  · rename_i cs rest hs; right; left; exact ⟨cs, rest, hs, by simpa using h.symm⟩
  · rename_i rest hs; right; right; exact ⟨rest, hs, by simpa using h.symm⟩

/-- Everything a guest step can do. -/
theorem guestStep_next {s t : State} (h : guestStep s = .next t) :
    (fetch s = .endOfProgram ∧ t = { s with run := .done })
      ∨ (∃ w, fetch s = .illegal w ∧ t = raise (.illegalCommand w) s)
      ∨ ∃ i, fetch s = .command i ∧ exec i s = .next t := by
  unfold guestStep at h
  split at h
  · rename_i hf; left; exact ⟨hf, by simpa using h.symm⟩
  · cases h
  · rename_i w hf; right; left; exact ⟨w, hf, by simpa using h.symm⟩
  · rename_i i hf; right; right; exact ⟨i, hf, h⟩

/-- Everything a step can do: the host's turn at a hold, a guest step otherwise. -/
theorem step_next {s t : State} (h : step s = .next t) :
    s.cfg.wf = true ∧ s.run = .running
      ∧ ((held s = true ∧ hostTurn s = .next t) ∨ (held s = false ∧ guestStep s = .next t)) := by
  unfold step machineStep at h
  split at h
  · rename_i hw
    split at h
    · cases h
    · cases h
    · rename_i hr
      split at h
      · rename_i hh; exact ⟨hw, hr, .inl ⟨hh, h⟩⟩
      · rename_i hh; exact ⟨hw, hr, .inr ⟨by simpa using hh, h⟩⟩
  · cases h

/-- A running guest that is not held takes a guest step. -/
theorem step_guest {s : State} (hw : s.cfg.wf = true) (hr : s.run = .running) (hh : held s = false) :
    step s = guestStep s := by simp [step, machineStep, hw, hr, hh]

/-- A held guest waits for the host. -/
theorem step_held {s : State} (hw : s.cfg.wf = true) (hh : held s = true) : step s = hostTurn s := by
  simp [step, machineStep, hw, hh, ((held_iff s).mp hh).1]

/-! ### The host's changes of the devices -/

/-- A device change writes the host-owned device registers and nothing else. -/
theorem changeDevice_frame (s : State) (d : DevChange) :
    changeDevice s d = { s with
      devKb := (changeDevice s d).devKb, devJoy := (changeDevice s d).devJoy, devMx := (changeDevice s d).devMx,
      devMy := (changeDevice s d).devMy, devMb := (changeDevice s d).devMb } := by cases d <;> rfl

@[simp] theorem lastChange_nil (value : DevChange → Option Byte) (old : Byte) : lastChange value [] old = old := rfl

/-- The first change is the old value of the others. -/
theorem lastChange_cons (value : DevChange → Option Byte) (d : DevChange) (cs : List DevChange) (old : Byte) :
    lastChange value (d :: cs) old = lastChange value cs ((value d).getD old) := by
  cases h : value d <;> simp only [lastChange, List.filterMap_cons, h, List.getLastD_cons, Option.getD]

/-- All that any number of device changes do: each host-owned device register takes the last value they give it. -/
theorem foldl_changeDevice_eq (cs : List DevChange) (s : State) :
    cs.foldl changeDevice s = { s with
      devKb := Vector.ofFn fun i : Fin 8 => lastChange (rowChange i) cs s.devKb[i]
      devJoy := lastChange joyChange cs s.devJoy
      devMx := lastChange mxChange cs s.devMx
      devMy := lastChange myChange cs s.devMy
      devMb := lastChange mbChange cs s.devMb } := by
  induction cs generalizing s with
  | nil =>
    simp
  | cons d cs ih =>
    rw [List.foldl_cons, ih]
    simp only [lastChange_cons]
    cases d with
    | kb j v =>
      congr 1
      refine congrArg Vector.ofFn (funext fun i => congrArg (lastChange (rowChange i) cs) ?_)
      by_cases h : j = i
      · subst h; simp [changeDevice, rowChange]
      · have : j.val ≠ i.val := fun e => h (Fin.ext e)
        simp [changeDevice, rowChange, h, this]
    | _ => rfl

/-- Any number of device changes write the host-owned device registers and nothing else. -/
theorem foldl_changeDevice_frame (cs : List DevChange) (s : State) :
    ∃ kb joy mx my mb, cs.foldl changeDevice s =
      { s with devKb := kb, devJoy := joy, devMx := mx, devMy := my, devMb := mb } := by
  exact ⟨_, _, _, _, _, foldl_changeDevice_eq cs s⟩

end Sys2Proof.Machine
end

