-- ==== Sys2Proof/Machine/Asm.lean ====
section
/-! DEFINITION. The assembler's syntax (30_encoding R64) and the pseudo-instructions in it (R65): from the characters of
a program text to its command words. What R64 leaves open (white space, escapes, the form of names) is fixed in
notes/assumptions/22.md. -/

namespace Sys2Proof.Machine

/-- The tokens of a line. -/
inductive Token where
  /-- A mnemonic, a name or a number. -/
  | name (cs : List Char)
  /-- A quoted character. -/
  | char (c : Char)
  /-- A quoted string. -/
  | string (cs : List Char)
  | colon
deriving DecidableEq, Repr

/-- What the assembler rejects a text for. -/
inductive AsmError where
  | badCharacter
  | openQuote
  | badLine
  | badOperand
  | unknownLabel
  | outOfRange
deriving DecidableEq, Repr

/-- Where the line scanner stands. The accumulators are reversed. -/
inductive Scan where
  | between
  | inName (acc : List Char)
  | inChar (acc : List Char)
  | inCharEscape (acc : List Char)
  | inString (acc : List Char)
  | inStringEscape (acc : List Char)
deriving DecidableEq, Repr

/-- The character an escape stands for: `\n`, `\r`, `\t`, else the character itself. -/
def escaped (c : Char) : Char :=
  if c = 'n' then '\n' else if c = 'r' then '\r' else if c = 't' then '\t' else c

/-- May the character stand in a name, a mnemonic or a number? -/
def isNameChar (c : Char) : Bool := c.isAlphanum || c == '_' || c == '-' || c == '.'

/-- White space between tokens. -/
def isBlank (c : Char) : Bool := c == ' ' || c == '\t' || c == '\r'

/-- The scanner: the tokens of one line; a `;` outside quotes starts a comment (30_encoding R64). -/
def scanLine : Scan → List Char → Except AsmError (List Token)
  | .between, [] => .ok []
  | .between, c :: cs =>
    if c = ';' then .ok []
    else if isBlank c then scanLine .between cs
    else if c = ':' then do return .colon :: (← scanLine .between cs)
    else if c = '\'' then scanLine (.inChar []) cs
    else if c = '"' then scanLine (.inString []) cs
    else if isNameChar c then scanLine (.inName [c]) cs
    else .error .badCharacter
  | .inName acc, [] => .ok [.name acc.reverse]
  | .inName acc, c :: cs =>
    if isNameChar c then scanLine (.inName (c :: acc)) cs
    else if c = ';' then .ok [.name acc.reverse]
    else if isBlank c then do return .name acc.reverse :: (← scanLine .between cs)
    else if c = ':' then do return .name acc.reverse :: .colon :: (← scanLine .between cs)
    else .error .badCharacter
  | .inChar acc, c :: cs =>
    if c = '\'' then
      match acc with
      | [d] => do return .char d :: (← scanLine .between cs)
      | _ => .error .badCharacter
    else if c = '\\' then scanLine (.inCharEscape acc) cs
    else scanLine (.inChar (c :: acc)) cs
  | .inCharEscape acc, c :: cs => scanLine (.inChar (escaped c :: acc)) cs
  | .inString acc, c :: cs =>
    if c = '"' then do return .string acc.reverse :: (← scanLine .between cs)
    else if c = '\\' then scanLine (.inStringEscape acc) cs
    else scanLine (.inString (c :: acc)) cs
  | .inStringEscape acc, c :: cs => scanLine (.inString (escaped c :: acc)) cs
  | .inChar _, [] => .error .openQuote
  | .inCharEscape _, [] => .error .openQuote
  | .inString _, [] => .error .openQuote
  | .inStringEscape _, [] => .error .openQuote

/-- The lines of a text. -/
def textLines : List Char → List (List Char)
  | [] => [[]]
  | c :: cs =>
    if c = '\n' then [] :: textLines cs
    else match textLines cs with
      | [] => [[c]]
      | l :: ls => (c :: l) :: ls

/-- The value of a digit in a base up to 16, upper or lower case. -/
def digitValue (base : Nat) (c : Char) : Option Nat :=
  let v :=
    if '0'.toNat ≤ c.toNat ∧ c.toNat ≤ '9'.toNat then c.toNat - '0'.toNat
    else if 'A'.toNat ≤ c.toNat ∧ c.toNat ≤ 'F'.toNat then c.toNat - 'A'.toNat + 10
    else if 'a'.toNat ≤ c.toNat ∧ c.toNat ≤ 'f'.toNat then c.toNat - 'a'.toNat + 10
    else 16
  if v < base then some v else none

/-- The value of a digit sequence continued from `n`. -/
def digitsFrom (base n : Nat) : List Char → Option Nat
  | [] => some n
  | c :: cs => do
    let d ← digitValue base c
    digitsFrom base (base * n + d) cs

/-- A number as it is written: `0xNN`, or decimal (30_encoding R64). -/
def numberOf : List Char → Option Nat
  | [] => none
  | ['0', 'x'] => none
  | '0' :: 'x' :: cs => digitsFrom 16 0 cs
  | cs => digitsFrom 10 0 cs

/-- A number as a byte. -/
def byteOfNat (n : Nat) : Except AsmError Byte := if n < 256 then .ok (BitVec.ofNat 8 n) else .error .outOfRange

/-- The register names of 30_encoding R58, which are the operands of `EMITH`. -/
def selectorNames : List (List Char × RegSel) :=
  [(['K', 'F', '0'], .reg (.kf 0)), (['K', 'F', '1'], .reg (.kf 1)), (['K', 'F', '2'], .reg (.kf 2)),
   (['K', 'F', '3'], .reg (.kf 3)), (['K', 'F', '4'], .reg (.kf 4)), (['K', 'F', '5'], .reg (.kf 5)),
   (['K', 'F', '6'], .reg (.kf 6)), (['K', 'F', '7'], .reg (.kf 7)), (['J', 'O', 'Y'], .reg .joy),
   (['M', 'X'], .reg .mx), (['M', 'Y'], .reg .my), (['M', 'B'], .reg .mb), (['P', 'M', 'X'], .reg .pmx),
   (['P', 'M', 'Y'], .reg .pmy), (['P', 'M', 'B'], .reg .pmb), (['D', 'X'], .dx), (['D', 'Y'], .dy), (['D', 'W'], .dw),
   (['P', 'X'], .reg .px), (['P', 'Y'], .reg .py), (['P', 'P', 'X'], .reg .ppx), (['P', 'P', 'Y'], .reg .ppy),
   (['W', 'P', 'O', 'S'], .reg .wpos), (['P', 'W', 'P', 'O', 'S'], .reg .pwpos)]

/-- Commands without operand, the operandless pseudo-instructions among them (30_encoding R64, R65). -/
def plainCommands : List (List Char × List Instr) :=
  [(['W', 'A', 'I', 'T'], [.wait]), (['K', 'S', 'A', 'M', 'P'], [.ksamp]), (['J', 'S', 'A', 'M', 'P'], [.jsamp]),
   (['M', 'S', 'A', 'M', 'P'], [.msamp]), (['P', 'S', 'T', 'E', 'P'], [.pstep]), (['R', 'E', 'N', 'D', 'E', 'R'], [.render]),
   (['P', 'S', 'C', 'R'], [.pscr]), (['E', 'M', 'I', 'T', 'K', 'F'], emitkf), (['I', 'N', 'I', 'T'], pseudoInit),
   (['P', 'O', 'L', 'L'], pseudoPoll), (['D', 'R', 'A', 'W'], pseudoDraw)]

/-- A command of the text; a jump to a label waits for the label's index. -/
inductive AsmItem where
  | instr (i : Instr)
  | jumpTo (label : List Char)
deriving DecidableEq, Repr

/-- A byte operand: a number or a quoted character (30_encoding R64). -/
def byteOperand : Token → Except AsmError Byte
  | .name cs => match numberOf cs with
    | some n => byteOfNat n
    | none => .error .badOperand
  | .char c => byteOfNat c.toNat
  | _ => .error .badOperand

/-- A command with one operand (30_encoding R64, R65). -/
def operandCommand (m : List Char) (t : Token) : Except AsmError (List AsmItem) :=
  if m = ['E', 'M', 'I', 'T', 'C'] then do return [.instr (.emitc (← byteOperand t))]
  else if m = ['E', 'M', 'I', 'T', 'H', 'I'] then do return [.instr (.emithi (← byteOperand t))]
  else if m = ['E', 'M', 'I', 'T', 'S'] then
    match t with
    | .string cs => do return (emits (← cs.mapM fun c => byteOfNat c.toNat)).map .instr
    | _ => .error .badOperand
  else match t with
    | .name cs =>
      if m = ['E', 'M', 'I', 'T', 'H'] then
        match selectorNames.lookup cs with
        | some r => .ok [.instr (.emith r)]
        | none => .error .badOperand
      else if m = ['P', 'B', 'T', 'N'] then
        match numberOf cs with
        | some n => if h : n < 4 then .ok [.instr (.pbtn ⟨n, h⟩)] else .error .outOfRange
        | none => .error .badOperand
      else if m = ['J', 'M', 'P'] then
        match numberOf cs with
        | some n => do return [.instr (.jmp (← byteOfNat n))]
        | none => .ok [.jumpTo cs]
      else .error .badLine
    | _ => .error .badOperand

/-- The command part of a line: nothing, a command, or a command and its operand. -/
def parseCommand : List Token → Except AsmError (List AsmItem)
  | [] => .ok []
  | [.name m] => match plainCommands.lookup m with
    | some is => .ok (is.map .instr)
    | none => .error .badLine
  | [.name m, t] => operandCommand m t
  | _ => .error .badLine

/-- A line: an optional label followed by `:`, then the command part. -/
def parseLine : List Token → Except AsmError (Option (List Char) × List AsmItem)
  | .name l :: .colon :: ts => do return (some l, ← parseCommand ts)
  | ts => do return (none, ← parseCommand ts)

/-- First pass: the items in order, and each label with the index of the next command, from index `n` on. -/
def firstPass (n : Nat) : List (List Char) → Except AsmError (List AsmItem × List (List Char × Nat))
  | [] => .ok ([], [])
  | l :: ls => do
    let (label, items) ← parseLine (← scanLine .between l)
    let (rest, labels) ← firstPass (n + items.length) ls
    return (items ++ rest, match label with
      | some name => (name, n) :: labels
      | none => labels)

/-- Second pass: a jump to a label becomes a jump to its index. -/
def resolveItem (labels : List (List Char × Nat)) : AsmItem → Except AsmError Instr
  | .instr i => .ok i
  | .jumpTo l => match labels.lookup l with
    | some n => do return .jmp (← byteOfNat n)
    | none => .error .unknownLabel

/-- The commands of a program text (30_encoding R64). -/
def assemble (text : List Char) : Except AsmError (List Instr) := do
  let (items, labels) ← firstPass 0 (textLines text)
  items.mapM (resolveItem labels)

end Sys2Proof.Machine
end

