-- ==== Sys2Proof/Tests/Slice0.lean ====
section
/-! SUPPORT. Tests of the model against the examples and vectors of 95_test_vectors (each names its own), and one witness
for the hypotheses of each statement. -/

namespace Sys2Proof.Tests

open Sys2Proof Sys2Proof.Machine

/-! ### Helpers -/

/-- The example sprite `EXSPR` of 95_test_vectors. -/
def exampleSprite : Vector Byte 8 := #v[0x80, 0xC0, 0xE0, 0xF0, 0xF8, 0xE0, 0x90, 0x08]

/-- The test configuration `TC1` with `EXSPR` and the program `p`. -/
def tc1 (p : List Word) : Config := { Config.default with sprite := exampleSprite, prog := p }

/-- Reset under `tc1 p`. -/
def start (p : List Word) : State := { State.reset with cfg := tc1 p }

/-- Does the outcome have a next state, and does that state pass the check? -/
def after (o : Host.Outcome State Fault Refusal) (check : State → Bool) : Bool :=
  match o with
  | .next t => check t
  | _ => false

/-- The fault an outcome stops with, if it does. -/
def stoppedBy (o : Host.Outcome State Fault Refusal) : Option Fault :=
  match o with
  | .fault f => some f
  | _ => none

/-- `PPX PPY PX PY` at the four values. -/
def moved (ox oy nx ny : Byte) : State := { start [] with ppx := some ox, ppy := some oy, px := nx, py := ny }

/-- The positions and snapshots of V-M10 (decimal 100, 191, 5; 20, 17; 9, 10; 0x30, 0x50). -/
def beforeStep : State :=
  { start [] with
    px := 100, py := 191, wpos := 5, pmx := some 20, mx := some 17, pmy := some 9, my := some 10,
    pmb := some 0x30, mb := some 0x50 }

/-! ### Configurations: one ill-formed one for each check (00_scope R7, R8) -/

theorem test_default_is_well_formed : Config.default.wf = true := by decide

theorem test_width_zero_refused :
    ({ Config.default with addrW := 0 } : Config).widthOk = false
      ∧ ({ Config.default with addrW := 0 } : Config).wf = false := by decide

theorem test_wide_address_refused :
    ({ Config.default with joyAddr := 0x10000 } : Config).addrsFit = false
      ∧ ({ Config.default with joyAddr := 0x10000 } : Config).wf = false := by decide

theorem test_colliding_addresses_refused :
    ({ Config.default with joyAddr := 0x0203 } : Config).addrsDistinct = false
      ∧ ({ Config.default with mouseSelAddr := 0x0100 } : Config).wf = false
      ∧ ({ Config.default with mouseDataAddr := 0x0300 } : Config).wf = false := by decide

/-- The one coincidence 00_scope R8 allows. -/
theorem test_mouse_addresses_may_coincide : ({ Config.default with mouseDataAddr := 0x0400 } : Config).wf = true := by
  decide

theorem test_equal_selectors_refused :
    ({ Config.default with mselB := 0 } : Config).selectorsDistinct = false
      ∧ ({ Config.default with mselB := 0 } : Config).wf = false := by decide

theorem test_reset_out_of_range_refused :
    ({ Config.default with pyReset := 192 } : Config).wf = false
      ∧ ({ Config.default with wposReset := 192 } : Config).wf = false
      ∧ ({ Config.default with pyReset := 191, wposReset := 191, pxReset := 255 } : Config).wf = true := by decide

theorem test_long_program_refused :
    ({ Config.default with prog := List.replicate 257 0x0100 } : Config).progFits = false
      ∧ ({ Config.default with prog := List.replicate 256 0x0100 } : Config).progFits = true := by
  simp only [Config.progFits, Config.progLen, List.length_replicate]; decide

theorem test_ill_formed_configuration_has_no_step :
    step { State.reset with cfg := { Config.default with addrW := 0 } } = .refused .illFormedConfig := by rfl

/-! ### Decoding: the words of 95_test_vectors 2.1, op in bits 15:8 and arg in bits 7:0 -/

theorem test_decode_wait : decode 0b0000000100000000 = .ok .wait := by decide
theorem test_decode_emitc : decode 0b0000001000001010 = .ok (.emitc 0x0A) := by decide
theorem test_decode_emithi : decode 0b0000001110100101 = .ok (.emithi 0xA5) := by decide
theorem test_decode_emith :
    decode 0b0000010000000111 = .ok (.emith (.reg (.kf 7))) ∧ decode 0b0000010000010000 = .ok (.emith .dy)
      ∧ decode 0b0000010000001100 = .ok (.emith (.reg .pmx)) := by decide
theorem test_decode_ksamp : decode 0b0000010100000000 = .ok .ksamp := by decide
theorem test_decode_jsamp : decode 0b0000011000000000 = .ok .jsamp := by decide
theorem test_decode_msamp : decode 0b0000011100000000 = .ok .msamp := by decide
theorem test_decode_pstep : decode 0b0000100000000000 = .ok .pstep := by decide
theorem test_decode_render : decode 0b0000100100000000 = .ok .render := by decide
theorem test_decode_pbtn : decode 0b0000101000000011 = .ok (.pbtn 3) := by decide
theorem test_decode_pscr : decode 0b0000101100000000 = .ok .pscr := by decide
theorem test_decode_jmp : decode 0b0000110011111111 = .ok (.jmp 0xFF) := by decide

/-- The words 95_test_vectors 2.1 says a decoder must refuse. -/
theorem test_refused_words :
    (([0x0000, 0x00FF, 0x0101, 0x01FF, 0x0418, 0x04FF, 0x0501, 0x0601, 0x0701, 0x0801, 0x0901, 0x0A04, 0x0AFF, 0x0B01,
       0x0D00, 0x7F00, 0xFFFF] : List Word).all fun w => (decode w).toOption.isNone) = true := by decide

theorem test_table_words :
    decodeTableWord 16 0x0417 = some (.emith (.reg .pwpos)) ∧ decodeTableWord 16 0x0C05 = some (.jmp 5)
      ∧ decodeTableWord 16 0x0418 = none := by decide

/-! ### The commands, one step each -/

/-- V-C1. -/
theorem test_wait_held : stoppedBy (step (start [0x0100])) = some .held := by decide

/-- V-C2. -/
theorem test_wait_passes :
    after (step { start [0x0100] with rel := 0x5A, ev := [.release 0x5A] }) (fun t =>
      decide (t.rel = 0 ∧ t.tx = some 1 ∧ t.pc = 1 ∧ t.out = [] ∧ t.ev = [.release 0x5A, .ack 1])) = true := by decide

/-- V-C4. -/
theorem test_emitc_data :
    after (step { start [0x022C] with out := [0x46, 0x46] }) (fun t =>
      decide (t.tx = some 0x2C ∧ t.out = [0x46, 0x46, 0x2C] ∧ t.ev = [.data 0x2C] ∧ t.pc = 1)) = true := by decide

/-- V-C6, the last arm. -/
theorem test_emitc_with_release_pending :
    after (exec (.emitc 0x41) { start [] with rel := 7 }) (fun t =>
      decide (t.rel = 0 ∧ t.tx = some 0x41 ∧ t.out = [] ∧ t.ev = [.ack 0x41])) = true := by decide

/-- 95_test_vectors 2.3. -/
theorem test_emithi :
    after (step (start [0x03A5])) (fun t =>
      decide (t.out = [0x41, 0x35] ∧ t.tx = some 0x35 ∧ t.ev = [.data 0x41, .data 0x35])) = true := by decide

/-- 95_test_vectors 2.3: `DX = -1` sends `FF`, by S4. -/
theorem test_emith_dx :
    after (step { start [0x040F] with pmx := some 0, mx := some 255 }) (fun t => decide (t.out = [0x46, 0x46])) = true := by
  decide

/-- P6, first row. -/
theorem test_emith_unwritten :
    after (step (start [0x0400])) (fun t =>
      decide (t.run = .faulted (.unwrittenRegister (.kf 0)) ∧ t.pc = 0 ∧ t.out = [] ∧ t.ev = [])) = true := by decide

/-- V-K1. -/
theorem test_ksamp :
    after (step { start [0x0500] with devKb := #v[0x1F, 0xBE, 0x1F, 0x1D, 0xFF, 0x00, 0x0F, 0xBF] }) (fun t =>
      decide (t.kf = #v[some 0xFF, some 0xFE, some 0xFF, some 0xFD, some 0xFF, some 0xE0, some 0xEF, some 0xFF]
        ∧ t.ev = [.devRd 0x200 0x1F, .devRd 0x201 0xBE, .devRd 0x202 0x1F, .devRd 0x203 0x1D, .devRd 0x204 0xFF,
                  .devRd 0x205 0x00, .devRd 0x206 0x0F, .devRd 0x207 0xBF])) = true := by decide

/-- 95_test_vectors 2.5. -/
theorem test_jsamp :
    after (step { start [0x0600] with devJoy := 0x11 }) (fun t =>
      decide (t.joy = some 0x11 ∧ t.ev = [.devRd 0x300 0x11])) = true := by decide

/-- V-M1. -/
theorem test_msamp :
    after (step { start [0x0700] with
        mx := some 5, my := some 6, mb := some 0, devMx := 0x10, devMy := 0x20, devMb := 0x31 }) (fun t =>
      decide (t.pmx = some 5 ∧ t.pmy = some 6 ∧ t.pmb = some 0 ∧ t.mx = some 0x10 ∧ t.my = some 0xDF ∧ t.mb = some 0x31
        ∧ t.devMsel = some 2
        ∧ t.ev = [.devWr 0x400 0, .devRd 0x401 0x10, .devWr 0x400 1, .devRd 0x401 0x20, .devWr 0x400 2,
                  .devRd 0x401 0x31])) = true := by decide

/-- V-M2. -/
theorem test_first_msamp :
    after (step (start [0x0700])) (fun t => decide (t.pmx = none ∧ t.mx = some 0 ∧ t.my = some 255)) = true := by decide

/-- V-M10. -/
theorem test_pstep :
    after (exec .pstep beforeStep) (fun t =>
      decide (t.ppx = some 100 ∧ t.ppy = some 191 ∧ t.pwpos = some 5 ∧ t.px = 97 ∧ t.py = 1 ∧ t.wpos = 7 ∧ t.ev = []))
      = true := by decide

/-- V-M11. -/
theorem test_pstep_unwritten :
    after (exec .pstep { beforeStep with pmx := none }) (fun t =>
      decide (t.run = .faulted (.unwrittenRegister .pmx) ∧ t.ppx = none ∧ t.px = 100)) = true := by decide

/-- V-R1, the plane: `shape((1,0))`, 21 cells, and 30 calls. -/
theorem test_render_plane :
    after (exec .render { moved 0 0 1 0 with pix := setCells (tc1 []) ⟨0, 0⟩ }) (fun t =>
      decide (t.pix = [⟨1, 0⟩, ⟨1, 1⟩, ⟨2, 1⟩, ⟨1, 2⟩, ⟨2, 2⟩, ⟨3, 2⟩, ⟨1, 3⟩, ⟨2, 3⟩, ⟨3, 3⟩, ⟨4, 3⟩, ⟨1, 4⟩, ⟨2, 4⟩,
          ⟨3, 4⟩, ⟨4, 4⟩, ⟨5, 4⟩, ⟨1, 5⟩, ⟨2, 5⟩, ⟨3, 5⟩, ⟨1, 6⟩, ⟨4, 6⟩, ⟨5, 7⟩]
        ∧ t.ev.length = 30)) = true := by decide

/-- V-R4, the clearing calls in their order, then the first setting call. -/
theorem test_render_calls :
    after (exec .render (moved 0 0 0 1)) (fun t =>
      decide (t.ev.take 8 = [.draw (.clearPixel ⟨0, 0⟩), .draw (.clearPixel ⟨1, 1⟩), .draw (.clearPixel ⟨2, 2⟩),
        .draw (.clearPixel ⟨3, 3⟩), .draw (.clearPixel ⟨4, 4⟩), .draw (.clearPixel ⟨3, 6⟩), .draw (.clearPixel ⟨4, 7⟩),
        .draw (.setPixel ⟨0, 1⟩)])) = true := by decide

/-- V-R9. -/
theorem test_pbtn :
    after (step { start [0x0A02] with mb := some 0x35 }) (fun t =>
      decide (t.btnBox = #v[none, none, some true, none] ∧ t.ev = [.draw (.buttonBox 2 true)])) = true := by decide

/-- V-R10. -/
theorem test_pscr :
    after (step { start [0x0B00] with pwpos := some 5, wpos := 7 }) (fun t =>
      decide (t.scrollBox = some 7 ∧ t.ev = [.draw (.scrollBox 5 7)])) = true := by decide

/-- V-Q1. -/
theorem test_jmp :
    after (step { start (List.replicate 10 0x0100 ++ [0x0C01]) with pc := 10 }) (fun t => decide (t.pc = 1 ∧ t.ev = []))
      = true := by decide

/-- V-Q2: the index of the end of the run is no target. -/
theorem test_jmp_bad_target :
    after (step (start [0x0C01])) (fun t => decide (t.run = .faulted (.badTarget 1) ∧ t.pc = 0)) = true := by decide

/-! ### Tables of the operand functions, the sequencer, the assembler -/

/-- V-M4, rows (previous, current, delta). -/
theorem test_deltas :
    (([(255, 0, 1), (0, 255, -1), (10, 20, 10), (20, 10, -10), (5, 5, 0), (0, 127, 127), (0, 128, -128), (128, 0, -128),
       (250, 4, 10), (1, 130, -127)] : List (Byte × Byte × Int)).all fun r => signedDelta r.2.1 r.1 == r.2.2) = true := by
  decide

/-- V-M5, rows (`PMB`, `MB`, delta). -/
theorem test_wheel_deltas :
    (([(0xF0, 0x00, 1), (0x00, 0xF0, -1), (0x30, 0x50, 2), (0x35, 0x5A, 2), (0x00, 0x70, 7)] :
      List (Byte × Byte × Int)).all fun r => wheelDelta r.2.1 r.1 == r.2.2) = true := by decide

/-- V-M7 and V-M9, as functions of the integer sum. -/
theorem test_wrap_and_clamp :
    [-128, -1, 0, 191, 192, 318].map wrapY = [192, 192, 0, 191, 1, 1]
      ∧ [-5, -1, 0, 12, 191, 192, 197].map clampWheel = [0, 0, 0, 12, 191, 191, 191] := by decide

/-- V-M3, rows (raw, `MY`). -/
theorem test_y_conversion : ([0, 1, 100, 127, 128, 254, 255] : List Byte).map flipY = [255, 254, 155, 128, 127, 1, 0] := by
  decide

/-- V-Q3: the end of the run, which is final. -/
theorem test_end_of_run :
    after (step (start [])) (fun t => decide (t.run = .done ∧ t.pc = 0) && decide (stoppedBy (step t) = some .ended)) = true := by
  decide

/-- P6, an illegal word; the faulted machine is quiescent. -/
theorem test_illegal_word :
    after (step (start [0x0418])) (fun t =>
      decide (t.run = .faulted (.illegalCommand 0x0418) ∧ t.pc = 0)
        && decide (stoppedBy (step t) = some (.faulted (.illegalCommand 0x0418)))) = true := by decide

/-- 20_memory R37, the last line. -/
theorem test_unmapped_read : ioRead 0x0500 (start []) = .error (.unmappedAccess 0x0500) := by rfl

/-- The host places a word where the next step fetches. -/
theorem test_placed_word :
    after (step (State.reset.withFetchWord 16 0x02FF)) (fun t => decide (t.out = [0xFF] ∧ t.pc = 1)) = true := by decide

/-- Program P2 of 95_test_vectors as text. -/
theorem test_assemble_joystick_loop :
    assemble "L: WAIT ; poll\n JSAMP\n EMITH JOY\n EMITC ','\n JMP L".toList
      = .ok [.wait, .jsamp, .emith (.reg .joy), .emitc 0x2C, .jmp 0] := by decide

/-- 95_test_vectors 2.1, the pseudo-instructions. -/
theorem test_pseudo_words :
    words (emits [0x0D, 0x0A]) = [0x020D, 0x020A] ∧ words pseudoPoll = [0x0100, 0x0700, 0x0800]
      ∧ words pseudoDraw = [0x0900, 0x0A00, 0x0A01, 0x0A02, 0x0A03, 0x0B00]
      ∧ words mouseDemo = [0x0700, 0x0100, 0x0700, 0x0800, 0x0900, 0x0A00, 0x0A01, 0x0A02, 0x0A03, 0x0B00, 0x0C01] := by
  decide

/-! ### Witnesses: for each statement with hypotheses, values that meet all of them together -/

theorem witness_EncodeDecodeRoundTrip : decode 0x0A03 = .ok (.pbtn 3) := by decide

/-- Clause 1 from both sides at the edges of the legal operands, then a state for each of clauses 2 and 3; the jump
target of clause 3 is `PROGLEN` itself. -/
theorem witness_IllegalWordsAreExactlyTheListed :
    decode 0x0418 = .error .reservedSelector ∧ decode 0x0417 ≠ .error .reservedSelector
      ∧ decode 0x0A04 = .error .reservedButton ∧ decode 0x0C00 = .ok (.jmp 0)
      ∧ (start [0x0101]).cfg.wf = true ∧ (start [0x0101]).run = .running
      ∧ (start [0x0101]).cfg.prog[(start [0x0101]).pc]? = some 0x0101 ∧ decode 0x0101 = .error .argumentNotZero
      ∧ (start [0x0C01]).cfg.wf = true ∧ (start [0x0C01]).run = .running
      ∧ (start [0x0C01]).cfg.prog[(start [0x0C01]).pc]? = some 0x0C01 ∧ (0x0C01 : Word).toNat / 256 = 0x0C
      ∧ (start [0x0C01]).cfg.progLen ≤ (0x0C01 : Word).toNat % 256 := by decide

/-- The first reserved number; a register with and without a value; each view with and without. -/
theorem witness_SelectorTable :
    0x18 ≤ (0x18 : Byte).toNat ∧ (RegSel.dx, Reg.mx, Reg.pmx) ∈ [(RegSel.dx, Reg.mx, Reg.pmx), (.dy, .my, .pmy), (.dw, .mb, .pmb)]
      ∧ regHolds { beforeStep with pmx := none } .pmx = none ∧ regHolds beforeStep .pmx ≠ none ∧ regHolds beforeStep .mx = some 17 ∧ regHolds (start []) .mx = none
      ∧ xDiff beforeStep = .ok (-3) ∧ yDiff beforeStep = .ok 1 ∧ wheelDiff beforeStep = .ok 2
      ∧ xDiff (start []) = .error (.unwrittenRegister .mx) ∧ yDiff (start []) = .error (.unwrittenRegister .my)
      ∧ wheelDiff (start []) = .error (.unwrittenRegister .mb) := by decide

/-- Both values of the check, at the range of `PY_RESET`. -/
theorem witness_ConfigurationCheck :
    ({ Config.default with pyReset := 191 } : Config).wf = true
      ∧ ({ Config.default with pyReset := 192 } : Config).wf = false
      ∧ ({ State.reset with cfg := { Config.default with pyReset := 192 } } : State).cfg.wf = false := by decide

/-- A passing `WAIT`, the case where the last hypothesis says something. -/
theorem witness_StepRunsTheFetchedCommand :
    let s : State := { start [0x0100] with rel := 1 }
    s.cfg.wf = true ∧ s.run = .running ∧ s.cfg.prog[s.pc]? = some 0x0100 ∧ decode 0x0100 = .ok .wait
      ∧ (Instr.wait = .wait → s.rel ≠ 0) := by decide

theorem witness_EndOfRunIsFinal :
    (start []).cfg.wf = true ∧ (start []).run = .running ∧ (start []).pc = (start []).cfg.progLen
      ∧ ({ start [] with run := .done } : State).run = .done := by decide

theorem witness_FaultedMachineIsQuiescent :
    ({ start [] with run := .faulted (.badTarget 1) } : State).cfg.wf = true
      ∧ ({ start [] with run := .faulted (.badTarget 1) } : State).run = .faulted (.badTarget 1) := by decide

/-- A held guest, with scripts for each clause; the device steps are empty, of one register, of several, and of one
register twice. -/
theorem witness_HostActsAtAHold :
    (∀ script ∈ ([[], [.release 255], [.release 0], [.observe], [.dev []], [.dev [.my 3]],
        [.dev [.kb 0 1, .joy 1, .kb 7 2]], [.dev [.kb 7 1, .kb 7 2]]] : List (List HostStep)),
      let s : State := { start [0x0100] with script := script }
      s.cfg.wf = true ∧ s.run = .running ∧ s.cfg.prog[s.pc]? = some 0x0100 ∧ s.rel = 0 ∧ s.script = script)
      ∧ (255 : Byte) ≠ 0 := by decide

/-- A `pc` inside the program, at its end, at the last index and above every store. -/
theorem witness_PlacedWordIsFetchedNext :
    ∀ pc ∈ [0, 1, 255, 256], ({ start [0x0100] with pc := pc } : State).cfg.wf = true := by decide

theorem witness_WaitPassesOnReleaseOnly :
    ({ start [] with rel := 1 } : State).rel ≠ 0 ∧ ({ start [] with rel := 255 } : State).rel ≠ 0 ∧ (start []).rel = 0 := by
  decide

theorem witness_AcknowledgementIsNoRelease :
    (∃ t, exec .wait { start [] with rel := 255 } = .next t)
      ∧ ({ start [0x0100] with script := [.release 1] } : State).rel = 0
      ∧ ∃ t, step { start [0x0100] with script := [.release 1] } = .next t ∧ t.rel ≠ 0 :=
  ⟨⟨_, rfl⟩, by decide, _, rfl, by decide⟩

theorem witness_EmitcTransmitsOneByte : (start []).rel = 0 ∧ ({ start [] with rel := 7 } : State).rel ≠ 0 := by decide

theorem witness_HexRoundTrip : hex2 0xA5 = hex2 0xA5 := rfl

theorem witness_EmithiTransmitsTheHexPair :
    hex2 0xA5 = [0x41, 0x35] ∧ (start []).rel = 0 ∧ ({ start [] with rel := 7 } : State).rel ≠ 0 := by decide

/-- A register that can be without a value, and one that cannot. -/
theorem witness_EmithTransmitsARegister :
    regHolds { start [] with joy := some 0xFE } .joy = some 0xFE ∧ hex2 0xFE = [0x46, 0x45]
      ∧ regHolds (start []) .px = some 0 ∧ hex2 0 = [0x30, 0x30]
      ∧ ({ start [] with joy := some 0xFE } : State).rel = 0
      ∧ ({ start [] with joy := some 0xFE, rel := 7 } : State).rel ≠ 0 := by decide

/-- Both snapshots present, with and without a release pending. -/
theorem witness_EmithTransmitsTheSignedViews :
    ∀ rel ∈ ([0, 1] : List Byte),
      let s : State := { start [] with
        rel := rel, mx := some 0, pmx := some 255, my := some 0, pmy := some 255, mb := some 0, pmb := some 255 }
      s.rel = rel ∧ s.mx = some 0 ∧ s.pmx = some 255 ∧ s.my = some 0 ∧ s.pmy = some 255 ∧ s.mb = some 0
        ∧ s.pmb = some 255 := by decide

theorem witness_EmithFaultsOnAnUnwrittenOperand :
    regHolds (start []) (.kf 0) = none ∧ regHolds (start []) .mb = none
      ∧ (RegSel.dw, Reg.mb, Reg.pmb) ∈ [(RegSel.dx, Reg.mx, Reg.pmx), (.dy, .my, .pmy), (.dw, .mb, .pmb)]
      ∧ regHolds { start [] with mb := some 0 } .mb ≠ none ∧ regHolds { start [] with mb := some 0 } .pmb = none := by
  decide

theorem witness_KsampFillsTheFrame : (start []).cfg.wf = true := by decide

/-- Two states whose raw bytes differ in bits 7:5 only. -/
theorem witness_FrameIsAFunctionOfTheMatrixLines :
    let s := start []
    let t : State := { start [] with devKb := #v[0xE0, 0x80, 0x40, 0x20, 0, 0, 0, 0] }
    s.cfg.wf = true ∧ t.cfg.wf = true ∧ (∀ i : Fin 8, s.devKb[i] &&& 0x1F = t.devKb[i] &&& 0x1F)
      ∧ (∃ u, exec .ksamp s = .next u) ∧ ∃ v, exec .ksamp t = .next v :=
  ⟨by decide, by decide, by decide, ⟨_, rfl⟩, ⟨_, rfl⟩⟩

theorem witness_JsampStoresTheByteUnmodified : (start []).cfg.wf = true := by decide

theorem witness_MsampTakesASnapshot : (start []).cfg.wf = true := by decide

theorem witness_MsampTwiceGivesZeroDeltas :
    (start []).cfg.wf = true ∧ ∃ t u, exec .msamp (start []) = .next t ∧ exec .msamp t = .next u :=
  ⟨by decide, _, _, rfl, rfl⟩

/-- The edges of the signed range: 127 and 128; and a register without a value. -/
theorem witness_DeltasWrapAroundSigned :
    (127 = ((127 : Byte).toNat + 256 - (0 : Byte).toNat) % 256) ∧ (128 = ((128 : Byte).toNat + 256 - (0 : Byte).toNat) % 256)
      ∧ ({ start [] with mx := some 127, pmx := some 0, my := some 128, pmy := some 0 } : State).mx = some 127
      ∧ ({ start [] with mx := some 127, pmx := some 0, my := some 128, pmy := some 0 } : State).pmx = some 0
      ∧ ({ start [] with mx := some 127, pmx := some 0, my := some 128, pmy := some 0 } : State).my = some 128
      ∧ ({ start [] with mx := some 127, pmx := some 0, my := some 128, pmy := some 0 } : State).pmy = some 0
      ∧ (start []).mx = none ∧ (start []).pmy = none := by decide

theorem witness_WheelDeltaIsANibbleDifference :
    let s : State := { start [] with mb := some 0x80, pmb := some 0x0F }
    s.mb = some 0x80 ∧ s.pmb = some 0x0F
      ∧ 8 = ((0x80 : Byte).toNat / 16 + 16 - (0x0F : Byte).toNat / 16) % 16 ∧ (start []).mb = none := by decide

/-- V-M10; its sum is 192, the first value above the range. -/
theorem witness_PstepMovesThePositions :
    beforeStep.mx = some 17 ∧ beforeStep.pmx = some 20 ∧ beforeStep.my = some 10 ∧ beforeStep.pmy = some 9
      ∧ beforeStep.mb = some 0x50 ∧ beforeStep.pmb = some 0x30
      ∧ (beforeStep.py.toNat : Int) + ((10 : Byte) - 9).toInt = 192 := by decide

/-- A step whose sum is above the range (V-M10), one below it, and one at each of its ends. -/
theorem witness_PstepWrapsYAndClampsTheWheel :
    (∃ t, exec .pstep beforeStep = .next t ∧ t.pc ≠ beforeStep.pc) ∧ yDiff beforeStep = .ok 1
      ∧ 191 < (beforeStep.py.toNat : Int) + 1
      ∧ ((0 : Byte).toNat : Int) + (-1) < 0 ∧ 0 ≤ ((1 : Byte).toNat : Int) + (-1) ∧ ((190 : Byte).toNat : Int) + 1 ≤ 191
      ∧ (∃ t, exec .pstep { beforeStep with py := 0, my := some 8 } = .next t ∧ t.pc ≠ beforeStep.pc)
      ∧ yDiff { beforeStep with py := 0, my := some 8 } = .ok (-1)
      ∧ (∃ t, exec .pstep { beforeStep with py := 190 } = .next t ∧ t.pc ≠ beforeStep.pc) :=
  ⟨⟨_, rfl, by decide⟩, by decide, by decide, by decide, by decide, by decide, ⟨_, rfl, by decide⟩, by decide,
    ⟨_, rfl, by decide⟩⟩

theorem witness_PstepReportsTheFirstUnwritten :
    ([Reg.mx, .pmx, .my, .pmy, .mb, .pmb].find? fun q => regHolds { beforeStep with pmb := none } q == none)
      = some .pmb := by decide

theorem witness_PstepLeavesPositionsInRange : ∃ t, exec .pstep beforeStep = .next t ∧ t.pc ≠ beforeStep.pc :=
  ⟨_, rfl, by decide⟩

theorem witness_RenderBlitsTheSprite :
    (moved 250 192 252 1).ppx = some 250 ∧ (moved 250 192 252 1).ppy = some 192 ∧ (start []).ppx = none
      ∧ ({ start [] with ppx := some 0 } : State).ppx = some 0 ∧ ({ start [] with ppx := some 0 } : State).ppy = none := by
  decide

theorem witness_RenderNamesPpxFirst :
    (start []).ppx = none ∧ (start []).ppy = none ∧ ({ start [] with ppx := some 0 } : State).ppx = some 0
      ∧ ({ start [] with ppx := some 0 } : State).ppy = none := by decide

theorem witness_RenderIssuesAtMost128Calls : ∃ t, exec .render (moved 0 0 8 0) = .next t := ⟨_, rfl⟩

theorem witness_RenderAtEqualPositionsClearsNothing :
    (moved 5 5 5 5).ppx = some (moved 5 5 5 5).px ∧ (moved 5 5 5 5).ppy = some (moved 5 5 5 5).py
      ∧ ∃ t, exec .render (moved 5 5 5 5) = .next t := ⟨by decide, by decide, _, rfl⟩

theorem witness_SecondRenderLeavesThePlane :
    (moved 0 0 1 0).pix.wf ∧ (moved 0 0 1 0).run = .running
      ∧ ∃ t u, exec .render (moved 0 0 1 0) = .next t ∧ exec .render t = .next u :=
  ⟨by decide, by decide, _, _, rfl, rfl⟩

theorem witness_PbtnPaintsTheButtonFlag :
    ({ start [] with mb := some 0x08 } : State).mb = some 0x08 ∧ (start []).mb = none ∧ 4 ≤ (4 : Byte).toNat
      ∧ (start [0x0A04]).cfg.wf = true ∧ (start [0x0A04]).run = .running
      ∧ (start [0x0A04]).cfg.prog[(start [0x0A04]).pc]? = some (0x0A00 ||| (4 : Byte).setWidth 16) := by decide

theorem witness_PscrPaintsTheWheelPosition :
    ({ start [] with pwpos := some 191 } : State).pwpos = some 191 ∧ (start []).pwpos = none := by decide

/-- The last legal target of a program of two words, and the first bad one. -/
theorem witness_JmpSetsPcOrFaults :
    (1 : Byte).toNat < (start [0x0100, 0x0C00]).cfg.prog.length
      ∧ (start [0x0100, 0x0C00]).cfg.prog.length ≤ (2 : Byte).toNat := by decide

theorem witness_PcAdvancesByOne :
    (start []).cfg.wf = true ∧ (∀ a, Instr.jsamp ≠ .jmp a) ∧ (start []).run = .running
      ∧ ∃ t, exec .jsamp (start []) = .next t ∧ t.run = .running := ⟨by decide, by simp, by decide, _, rfl, rfl⟩

/-- An address next to the last keyboard selector, which is none of the configured ones. -/
theorem witness_GuestReadDecodesTheAddress :
    (start []).cfg.wf = true ∧ 0x0208 ≠ (start []).cfg.chAddr ∧ (∀ i : Fin 8, 0x0208 ≠ (start []).cfg.kbSel[i])
      ∧ 0x0208 ≠ (start []).cfg.joyAddr ∧ 0x0208 ≠ (start []).cfg.mouseDataAddr := by decide

/-- The four latches of the four clauses; the last with a selector that is none of the three, and with none. -/
theorem witness_MouseDataFollowsTheLatch :
    (start []).cfg.wf = true ∧ 0x0401 = (start []).cfg.mouseDataAddr
      ∧ ({ start [] with devMsel := some 0 } : State).devMsel = some (start []).cfg.mselX
      ∧ ({ start [] with devMsel := some 1 } : State).devMsel = some (start []).cfg.mselY
      ∧ ({ start [] with devMsel := some 2 } : State).devMsel = some (start []).cfg.mselB := by decide

/-- The latches of its last clause. -/
theorem witness_MouseDataFollowsTheLatch_unlatched :
    (start []).devMsel ≠ some (start []).cfg.mselX ∧ (start []).devMsel ≠ some (start []).cfg.mselY
      ∧ (start []).devMsel ≠ some (start []).cfg.mselB ∧ (3 : Byte) ≠ (start []).cfg.mselX
      ∧ (3 : Byte) ≠ (start []).cfg.mselY ∧ (3 : Byte) ≠ (start []).cfg.mselB := by decide

/-- The mouse data address is not writable where it differs from the selector address. -/
theorem witness_GuestWriteDecodesTheAddress :
    (start []).cfg.wf = true ∧ ({ start [] with rel := 7 } : State).rel ≠ 0 ∧ (start []).rel = 0
      ∧ 0x0401 ≠ (start []).cfg.chAddr ∧ 0x0401 ≠ (start []).cfg.mouseSelAddr := by decide

theorem witness_NoCommandDrawsAFreeByte : (start []).cfg.wf = true ∧ ∃ t, exec .msamp (start []) = .next t :=
  ⟨by decide, _, rfl⟩

theorem witness_FaultingCommandChangesOnlyRun :
    (start []).cfg.wf = true ∧ (start []).run = .running
      ∧ ∃ t, exec .render (start []) = .next t ∧ t.run = .faulted (.unwrittenRegister .ppx) :=
  ⟨by decide, by decide, _, rfl, rfl⟩

theorem witness_FaultsComeFromTheListedCommands :
    (start []).cfg.wf = true ∧ (start []).run = .running
      ∧ (∃ t, exec (.pbtn 0) (start []) = .next t ∧ t.run = .faulted (.unwrittenRegister .mb))
      ∧ ∃ t, exec (.jmp 0) (start []) = .next t ∧ t.run = .faulted (.badTarget 0) :=
  ⟨by decide, by decide, ⟨_, rfl, rfl⟩, _, rfl, rfl⟩

theorem witness_SamplerRegistersHaveOneWriter :
    (start []).cfg.wf = true ∧ (∃ t, exec .jsamp (start []) = .next t) ∧ Instr.jsamp ≠ .ksamp ∧ Instr.jsamp ≠ .msamp
      ∧ Instr.jsamp ≠ .pstep ∧ (∃ t, exec .ksamp (start []) = .next t) ∧ Instr.ksamp ≠ .jsamp :=
  ⟨by decide, ⟨_, rfl⟩, by decide, by decide, by decide, ⟨_, rfl⟩, by decide⟩

/-- A sampling command for the clauses about other commands, `PBTN` for the clause about the other boxes. -/
theorem witness_ScreenAndChannelHaveTheirWriters :
    (start []).cfg.wf = true ∧ (∃ t, exec .jsamp (start []) = .next t) ∧ Instr.jsamp ≠ .render
      ∧ (∀ k, Instr.jsamp ≠ .pbtn k) ∧ Instr.jsamp ≠ .pscr ∧ Instr.jsamp ≠ .wait ∧ (∀ c, Instr.jsamp ≠ .emitc c)
      ∧ (∀ b, Instr.jsamp ≠ .emithi b) ∧ (∀ r, Instr.jsamp ≠ .emith r)
      ∧ (∃ t, exec (.pbtn 0) { start [] with mb := some 1 } = .next t) ∧ (3 : Fin 4) ≠ 0 :=
  ⟨by decide, ⟨_, rfl⟩, by simp, by simp, by simp, by simp, by simp, by simp, by simp, ⟨_, rfl⟩, by decide⟩

/-- A guest step and a host step. -/
theorem witness_EachAgentKeepsToItsRegisters :
    (held (start [0x0700]) = false ∧ ∃ t, step (start [0x0700]) = .next t)
      ∧ held { start [0x0100] with script := [.observe] } = true
      ∧ ∃ t, step { start [0x0100] with script := [.observe] } = .next t :=
  ⟨⟨by decide, _, rfl⟩, by decide, _, rfl⟩

theorem witness_HostScriptIsTakenInOrder :
    (held (start [0x0700]) = false ∧ ∃ t, step (start [0x0700]) = .next t)
      ∧ held { start [0x0100] with script := [.dev [], .release 1] } = true
      ∧ ∃ t, step { start [0x0100] with script := [.dev [], .release 1] } = .next t :=
  ⟨⟨by decide, _, rfl⟩, by decide, _, rfl⟩

theorem witness_ConfigurationIsFixedForARun : ∃ t, step (start [0x0700]) = .next t := ⟨_, rfl⟩

theorem witness_HistoriesOnlyGrow : ∃ t, step (start [0x03A5]) = .next t := ⟨_, rfl⟩

theorem witness_StepKeepsTheInvariants : (start [0x0500]).Inv ∧ ∃ t, step (start [0x0500]) = .next t :=
  ⟨by decide, _, rfl⟩

theorem witness_ResetHasTheInvariants :
    (tc1 [0x0100]).wf = true ∧ PixelPlane.wf [⟨0, 0⟩, ⟨7, 0⟩, ⟨-1, 1⟩] := by decide

theorem witness_ResetLeavesTheTableValues :
    start [0x0100] = State.resetWith (tc1 [0x0100]) #v[0, 0, 0, 0, 0, 0, 0, 0] 0 0 0 0 [] [] := rfl

end Sys2Proof.Tests
end

/-! PROOF. 00_scope R8: each part of the configuration check says its constraint, and a step checks it first. -/

namespace Sys2Proof.Machine

/-! ### The parts of the check, as constraints -/

/-- The keyboard selectors as a list are their values at the eight rows. -/
theorem kbSel_toList (c : Config) : c.kbSel.toList = List.ofFn fun i : Fin 8 => c.kbSel[i] := by
  apply List.ext_getElem
  · rw [Vector.length_toList, List.length_ofFn]
  · intro i _ _
    rw [Vector.getElem_toList, List.getElem_ofFn, Fin.getElem_fin]

theorem mem_kbSel_iff (c : Config) (a : Nat) : a ∈ c.kbSel.toList ↔ ∃ i : Fin 8, c.kbSel[i] = a := by
  rw [kbSel_toList, List.mem_ofFn]

theorem notMem_kbSel_iff (c : Config) (a : Nat) : a ∉ c.kbSel.toList ↔ ∀ i : Fin 8, c.kbSel[i] ≠ a := by
  rw [mem_kbSel_iff, not_exists]

theorem nodup_kbSel_iff (c : Config) :
    c.kbSel.toList.Nodup ↔ ∀ i j : Fin 8, i ≠ j → c.kbSel[i] ≠ c.kbSel[j] := by
  rw [kbSel_toList, List.nodup_ofFn]
  exact ⟨fun h _ _ hij e => hij (h e), fun h i j e => by_contra fun hij => h i j hij e⟩

theorem addrsFit_iff (c : Config) :
    c.addrsFit = true ↔
      c.chAddr < 2 ^ c.addrW ∧ c.joyAddr < 2 ^ c.addrW ∧ c.mouseSelAddr < 2 ^ c.addrW ∧ c.mouseDataAddr < 2 ^ c.addrW
        ∧ ∀ i : Fin 8, c.kbSel[i] < 2 ^ c.addrW := by
  have hkb : (∀ a ∈ c.kbSel.toList, a < 2 ^ c.addrW) ↔ ∀ i : Fin 8, c.kbSel[i] < 2 ^ c.addrW := by
    rw [kbSel_toList, List.forall_mem_ofFn_iff]
  simp only [Config.addrsFit, Config.mainAddrs, List.all_eq_true, List.forall_mem_cons, decide_eq_true_eq, hkb]
  tauto

theorem mainAddrs_nodup_iff (c : Config) :
    c.mainAddrs.Nodup ↔
      (c.chAddr ≠ c.joyAddr ∧ c.chAddr ≠ c.mouseSelAddr ∧ c.joyAddr ≠ c.mouseSelAddr)
      ∧ (∀ i : Fin 8, c.kbSel[i] ≠ c.chAddr ∧ c.kbSel[i] ≠ c.joyAddr ∧ c.kbSel[i] ≠ c.mouseSelAddr)
      ∧ ∀ i j : Fin 8, i ≠ j → c.kbSel[i] ≠ c.kbSel[j] := by
  simp only [Config.mainAddrs, List.nodup_cons, List.mem_cons, not_or, notMem_kbSel_iff, nodup_kbSel_iff, forall_and]
  tauto

theorem mouseDataAddr_notMem_iff (c : Config) :
    c.mouseDataAddr ∉ c.chAddr :: c.joyAddr :: c.kbSel.toList ↔
      c.chAddr ≠ c.mouseDataAddr ∧ c.joyAddr ≠ c.mouseDataAddr ∧ ∀ i : Fin 8, c.kbSel[i] ≠ c.mouseDataAddr := by
  simp only [List.mem_cons, not_or, notMem_kbSel_iff, ne_comm (a := c.mouseDataAddr)]

/-- The exception of R8 is what is missing here: `MOUSE_SEL_ADDR` and `MOUSE_DATA_ADDR` are not compared. -/
theorem addrsDistinct_iff (c : Config) :
    c.addrsDistinct = true ↔
      (c.chAddr ≠ c.joyAddr ∧ c.chAddr ≠ c.mouseSelAddr ∧ c.chAddr ≠ c.mouseDataAddr ∧ c.joyAddr ≠ c.mouseSelAddr
        ∧ c.joyAddr ≠ c.mouseDataAddr)
      ∧ (∀ i : Fin 8, c.kbSel[i] ≠ c.chAddr ∧ c.kbSel[i] ≠ c.joyAddr ∧ c.kbSel[i] ≠ c.mouseSelAddr
        ∧ c.kbSel[i] ≠ c.mouseDataAddr)
      ∧ ∀ i j : Fin 8, i ≠ j → c.kbSel[i] ≠ c.kbSel[j] := by
  simp only [Config.addrsDistinct, Bool.and_eq_true, decide_eq_true_eq, mainAddrs_nodup_iff, mouseDataAddr_notMem_iff,
    forall_and]
  tauto

theorem selectorsDistinct_iff (c : Config) :
    c.selectorsDistinct = true ↔ c.mselX ≠ c.mselY ∧ c.mselX ≠ c.mselB ∧ c.mselY ≠ c.mselB := by
  simp only [Config.selectorsDistinct, Bool.and_eq_true, decide_eq_true_eq, and_assoc]

theorem resetsInRange_iff (c : Config) :
    c.resetsInRange = true ↔ c.pyReset.toNat ≤ 191 ∧ c.wposReset.toNat ≤ 191 := by
  simp only [Config.resetsInRange, Bool.and_eq_true, decide_eq_true_eq]

/-- The check, part by part. -/
theorem wf_iff (c : Config) :
    c.wf = true ↔ 0 < c.addrW ∧ c.addrsFit = true ∧ c.addrsDistinct = true ∧ c.selectorsDistinct = true
      ∧ c.resetsInRange = true ∧ c.prog.length ≤ 256 := by
  simp only [Config.wf, Config.widthOk, Config.progFits, Bool.and_eq_true, decide_eq_true_eq, and_assoc]

/-! ### The refusal -/

/-- A step looks at the configuration first: under one that fails the check nothing else of the state matters. -/
theorem step_of_wf_false {s : State} (h : s.cfg.wf = false) : step s = .refused .illFormedConfig := by
  simp [step, machineStep, h]

/-- Settles O6: the check is taken apart into its parts (`wf_iff`), and each part is its constraint. -/
theorem configurationCheck : Obligations.ConfigurationCheck := by
  refine ⟨fun c => ?_, fun _ => step_of_wf_false⟩
  rw [wf_iff, addrsFit_iff, addrsDistinct_iff, selectorsDistinct_iff, resetsInRange_iff]
  simp only [and_assoc]

end Sys2Proof.Machine

/-! PROOF. 10_state R32, R33: each agent keeps to its own registers, and what reset leaves. -/

namespace Sys2Proof.Machine

/-! ### What the guest does not write -/

/-- What belongs to the host or to nobody: the device registers but the mouse latch (10_state R29, R32), the host's
script, and the configuration (R31). -/
def State.hostSide (s : State) : Config × List HostStep × Vector Byte 8 × Byte × Byte × Byte × Byte :=
  (s.cfg, s.script, s.devKb, s.devJoy, s.devMx, s.devMy, s.devMb)

theorem hostSide_eq_iff (s t : State) :
    t.hostSide = s.hostSide ↔
      t.cfg = s.cfg ∧ t.script = s.script ∧ t.devKb = s.devKb ∧ t.devJoy = s.devJoy ∧ t.devMx = s.devMx
        ∧ t.devMy = s.devMy ∧ t.devMb = s.devMb := by
  simp only [State.hostSide, Prod.mk.injEq]

/-- From `s` to `t` the guest may have acted: the host's side is as it was, and `REL` is kept or cleared. -/
def GuestFrame (s t : State) : Prop := t.hostSide = s.hostSide ∧ (t.rel = s.rel ∨ t.rel = 0)

theorem GuestFrame.refl (s : State) : GuestFrame s s := ⟨rfl, .inl rfl⟩

theorem GuestFrame.trans {s t u : State} (h : GuestFrame s t) (k : GuestFrame t u) : GuestFrame s u := by
  obtain ⟨hside, hrel⟩ := h
  obtain ⟨kside, krel⟩ := k
  refine ⟨kside.trans hside, ?_⟩
  rcases krel with krel | krel
  · rw [krel]; exact hrel
  · exact .inr krel

/-! ### The shared operations -/

/-- A computation that answers answered at each of its parts. -/
theorem bind_eq_ok {ε α β : Type} {x : Except ε α} {f : α → Except ε β} {b : β} (h : x >>= f = .ok b) :
    ∃ a, x = .ok a ∧ f a = .ok b := by
  cases x with
  | error e => cases h
  | ok a => exact ⟨a, rfl, h⟩

theorem raise_guestFrame (f : FaultReason) (s : State) : GuestFrame s (raise f s) := ⟨rfl, .inl rfl⟩

theorem advance_guestFrame (s : State) : GuestFrame s (advance s) := ⟨rfl, .inl rfl⟩

theorem emitEvent_guestFrame (e : Event) (s : State) : GuestFrame s (emitEvent e s) := ⟨rfl, .inl rfl⟩

/-- The one write of the guest to `REL`: the acknowledgement clears it (20_memory R40). -/
theorem channelWrite_guestFrame (b : Byte) (s : State) : GuestFrame s (channelWrite b s) := by
  by_cases hrel : s.rel = 0
  · rw [channelWrite_data b hrel]; exact ⟨rfl, .inl rfl⟩
  · rw [channelWrite_ack b hrel]; exact ⟨rfl, .inr rfl⟩

theorem mouseData_guestFrame (s : State) : GuestFrame s (mouseData s).2 := by
  unfold mouseData
  split
  · exact .refl s
  · split
    · exact .refl s
    · split
      · exact .refl s
      · exact ⟨rfl, .inl rfl⟩

/-- Everything a guest read that answers can do. -/
theorem ioRead_ok {a : Nat} {v : Byte} {s t : State} (h : ioRead a s = .ok (v, t)) :
    t = s ∨ t = emitEvent (.devRd a v) s ∨ t = emitEvent (.devRd a v) (mouseData s).2 := by
  simp only [ioRead, deviceRead] at h
  split at h
  · cases h; exact .inl rfl
  · split at h
    · cases h; exact .inr (.inl rfl)
    · split at h
      · cases h; exact .inr (.inl rfl)
      · split at h
        · cases h; exact .inr (.inr rfl)
        · cases h

theorem ioRead_guestFrame {a : Nat} {v : Byte} {s t : State} (h : ioRead a s = .ok (v, t)) : GuestFrame s t := by
  rcases ioRead_ok h with rfl | rfl | rfl
  · exact .refl _
  · exact emitEvent_guestFrame _ s
  · exact (mouseData_guestFrame s).trans (emitEvent_guestFrame _ _)

/-- Everything a guest write that answers can do. -/
theorem ioWrite_ok {a : Nat} {v : Byte} {s t : State} (h : ioWrite a v s = .ok t) :
    t = channelWrite v s ∨ t = emitEvent (.devWr a v) { s with devMsel := some v } := by
  unfold ioWrite at h
  split at h
  · cases h; exact .inl rfl
  · split at h
    · cases h; exact .inr rfl
    · cases h

theorem ioWrite_guestFrame {a : Nat} {v : Byte} {s t : State} (h : ioWrite a v s = .ok t) : GuestFrame s t := by
  rcases ioWrite_ok h with rfl | rfl
  · exact channelWrite_guestFrame v s
  · exact ⟨rfl, .inl rfl⟩

theorem sampleRow_guestFrame {s t : State} {i : Fin 8} (h : sampleRow s i = .ok t) : GuestFrame s t := by
  obtain ⟨⟨raw, u⟩, hread, hstore⟩ := bind_eq_ok h
  cases hstore
  exact (ioRead_guestFrame hread).trans ⟨rfl, .inl rfl⟩

theorem sampleRows_guestFrame {rows : List (Fin 8)} {s t : State} (h : rows.foldlM sampleRow s = .ok t) :
    GuestFrame s t := by
  induction rows generalizing s with
  | nil => cases h; exact .refl _
  | cons i rows ih =>
    rw [List.foldlM_cons] at h
    obtain ⟨u, hrow, hrest⟩ := bind_eq_ok h
    exact (sampleRow_guestFrame hrow).trans (ih hrest)

theorem mouseRegister_guestFrame {selector v : Byte} {s t : State} (h : mouseRegister selector s = .ok (v, t)) :
    GuestFrame s t := by
  obtain ⟨u, hwrite, hread⟩ := bind_eq_ok h
  exact (ioWrite_guestFrame hwrite).trans (ioRead_guestFrame hread)

theorem transmitHex_guestFrame {b : Byte} {s t : State} (h : transmitHex b s = .ok t) : GuestFrame s t := by
  rw [transmitHex_eq] at h
  cases h
  exact ((channelWrite_guestFrame _ s).trans (channelWrite_guestFrame _ _)).trans (advance_guestFrame _)

theorem blit_guestFrame (p n : Pixel) (s : State) : GuestFrame s (blit p n s) := by
  rw [blit_eq]; exact ⟨rfl, .inl rfl⟩

/-! ### The commands -/

/-- A command stays in the guest's frame if its effect does: a fault entry changes `RUN` only. -/
theorem complete_guestFrame {s t : State} {e : Except FaultReason State} (he : ∀ u, e = .ok u → GuestFrame s u)
    (h : complete s e = .next t) : GuestFrame s t := by
  rcases complete_next h with hok | ⟨f, -, rfl⟩
  · exact he t hok
  · exact raise_guestFrame f s

/-- `WAIT`: held, or the acknowledgement. -/
theorem execWait_eq (s : State) :
    execWait s = if s.rel = 0 then .fault .held else .next (advance (channelWrite ackByte s)) := by
  simp only [execWait, ioRead_channel, acknowledge, ioWrite_channel]
  rfl

theorem execWait_guestFrame {s t : State} (h : execWait s = .next t) : GuestFrame s t := by
  rw [execWait_eq] at h
  split at h
  · cases h
  · cases h; exact (channelWrite_guestFrame _ s).trans (advance_guestFrame _)

theorem execEmitc_guestFrame {c : Byte} {s t : State} (h : execEmitc c s = .next t) : GuestFrame s t := by
  refine complete_guestFrame (fun u hu => ?_) h
  obtain ⟨w, hwrite, hadv⟩ := bind_eq_ok hu
  cases hadv
  exact (ioWrite_guestFrame hwrite).trans (advance_guestFrame w)

theorem execEmith_guestFrame {r : RegSel} {s t : State} (h : execEmith r s = .next t) : GuestFrame s t := by
  refine complete_guestFrame (fun u hu => ?_) h
  obtain ⟨b, -, hsend⟩ := bind_eq_ok hu
  exact transmitHex_guestFrame hsend

theorem execKsamp_guestFrame {s t : State} (h : execKsamp s = .next t) : GuestFrame s t := by
  refine complete_guestFrame (fun u hu => ?_) h
  obtain ⟨w, hrows, hadv⟩ := bind_eq_ok hu
  cases hadv
  exact (sampleRows_guestFrame hrows).trans (advance_guestFrame w)

theorem execJsamp_guestFrame {s t : State} (h : execJsamp s = .next t) : GuestFrame s t := by
  refine complete_guestFrame (fun u hu => ?_) h
  obtain ⟨⟨v, w⟩, hread, hstore⟩ := bind_eq_ok hu
  cases hstore
  exact (ioRead_guestFrame hread).trans ⟨rfl, .inl rfl⟩

/-- `MSAMP`: three accesses of the mouse, and between them stores into the guest's own registers. -/
theorem execMsamp_guestFrame {s t : State} (h : execMsamp s = .next t) : GuestFrame s t := by
  refine complete_guestFrame (fun u hu => ?_) h
  obtain ⟨⟨x, s2⟩, hx, hu⟩ := bind_eq_ok hu
  obtain ⟨⟨raw, s4⟩, hy, hu⟩ := bind_eq_ok hu
  obtain ⟨⟨b, s6⟩, hb, hu⟩ := bind_eq_ok hu
  cases hu
  have toX : GuestFrame s s2 :=
    .trans (t := { s with pmx := s.mx, pmy := s.my, pmb := s.mb }) ⟨rfl, .inl rfl⟩ (mouseRegister_guestFrame hx)
  have toY : GuestFrame s2 s4 := .trans (t := { s2 with mx := some x }) ⟨rfl, .inl rfl⟩ (mouseRegister_guestFrame hy)
  have toB : GuestFrame s4 s6 :=
    .trans (t := { s4 with my := some (flipY raw) }) ⟨rfl, .inl rfl⟩ (mouseRegister_guestFrame hb)
  exact ((toX.trans toY).trans toB).trans ⟨rfl, .inl rfl⟩

theorem execPstep_guestFrame {s t : State} (h : execPstep s = .next t) : GuestFrame s t := by
  refine complete_guestFrame (fun u hu => ?_) h
  obtain ⟨dx, -, hu⟩ := bind_eq_ok hu
  obtain ⟨dy, -, hu⟩ := bind_eq_ok hu
  obtain ⟨dw, -, hu⟩ := bind_eq_ok hu
  cases hu
  exact ⟨rfl, .inl rfl⟩

theorem execRender_guestFrame {s t : State} (h : execRender s = .next t) : GuestFrame s t := by
  refine complete_guestFrame (fun u hu => ?_) h
  obtain ⟨nx, -, hu⟩ := bind_eq_ok hu
  obtain ⟨ny, -, hu⟩ := bind_eq_ok hu
  obtain ⟨ox, -, hu⟩ := bind_eq_ok hu
  obtain ⟨oy, -, hu⟩ := bind_eq_ok hu
  cases hu
  exact (blit_guestFrame _ _ s).trans (advance_guestFrame _)

theorem execPbtn_guestFrame {k : Fin 4} {s t : State} (h : execPbtn k s = .next t) : GuestFrame s t := by
  refine complete_guestFrame (fun u hu => ?_) h
  obtain ⟨p, -, hu⟩ := bind_eq_ok hu
  cases hu
  exact ⟨rfl, .inl rfl⟩

theorem execPscr_guestFrame {s t : State} (h : execPscr s = .next t) : GuestFrame s t := by
  refine complete_guestFrame (fun u hu => ?_) h
  obtain ⟨a, -, hu⟩ := bind_eq_ok hu
  obtain ⟨b, -, hu⟩ := bind_eq_ok hu
  cases hu
  exact ⟨rfl, .inl rfl⟩

theorem execJmp_guestFrame {target : Byte} {s t : State} (h : execJmp target s = .next t) : GuestFrame s t := by
  refine complete_guestFrame (fun u hu => ?_) h
  split at hu
  · cases hu; exact ⟨rfl, .inl rfl⟩
  · cases hu

theorem exec_guestFrame {i : Instr} {s t : State} (h : exec i s = .next t) : GuestFrame s t := by
  cases i with
  | wait => exact execWait_guestFrame h
  | emitc c => exact execEmitc_guestFrame h
  | emithi b => exact complete_guestFrame (fun _ => transmitHex_guestFrame) h
  | emith r => exact execEmith_guestFrame h
  | ksamp => exact execKsamp_guestFrame h
  | jsamp => exact execJsamp_guestFrame h
  | msamp => exact execMsamp_guestFrame h
  | pstep => exact execPstep_guestFrame h
  | render => exact execRender_guestFrame h
  | pbtn k => exact execPbtn_guestFrame h
  | pscr => exact execPscr_guestFrame h
  | jmp target => exact execJmp_guestFrame h

/-! ### The two agents -/

theorem guestStep_guestFrame {s t : State} (h : guestStep s = .next t) : GuestFrame s t := by
  rcases guestStep_next h with ⟨-, rfl⟩ | ⟨w, -, rfl⟩ | ⟨i, -, hexec⟩
  · exact ⟨rfl, .inl rfl⟩
  · exact raise_guestFrame _ s
  · exact exec_guestFrame hexec

/-- The host's turn writes `REL`, the host-owned device registers, the events and its script, and nothing else. -/
theorem hostTurn_frame {s t : State} (h : hostTurn s = .next t) :
    t = { s with
      rel := t.rel, devKb := t.devKb, devJoy := t.devJoy, devMx := t.devMx, devMy := t.devMy, devMb := t.devMb,
      ev := t.ev, script := t.script } := by
  rcases hostTurn_next h with ⟨v, rest, -, -, rfl⟩ | ⟨cs, rest, -, rfl⟩ | ⟨rest, -, rfl⟩
  · rfl
  · obtain ⟨kb, joy, mx, my, mb, hchanges⟩ := foldl_changeDevice_frame cs { s with script := rest }
    rw [hostDev, hchanges]
    rfl
  · rfl

/-- Settles O48: a step is the guest's or the host's turn (`step_next`), and each has its frame. -/
theorem eachAgentKeepsToItsRegisters : Obligations.EachAgentKeepsToItsRegisters := by
  intro s t h
  obtain ⟨-, -, ⟨hheld, hturn⟩ | ⟨hheld, hguest⟩⟩ := step_next h
  · exact ⟨fun hfree => by simp [hheld] at hfree, fun _ => hostTurn_frame hturn⟩
  · obtain ⟨hside, hrel⟩ := guestStep_guestFrame hguest
    obtain ⟨-, -, hkb, hjoy, hmx, hmy, hmb⟩ := (hostSide_eq_iff s t).mp hside
    exact ⟨fun _ => ⟨hkb, hjoy, hmx, hmy, hmb, hrel⟩, fun hhold => by simp [hheld] at hhold⟩

/-! ### Reset -/

section Reset

variable (c : Config) (kb : Vector Byte 8) (joy mx my mb : Byte) (p : PixelPlane) (script : List HostStep)

/-- No row of the frame holds a value after reset. -/
theorem resetWith_kf (i : Fin 8) : (State.resetWith c kb joy mx my mb p script).kf[i] = none :=
  Vector.getElem_replicate (n := 8) i.isLt

/-- No button box is painted after reset. -/
theorem resetWith_btnBox (k : Fin 4) : (State.resetWith c kb joy mx my mb p script).btnBox[k] = none :=
  Vector.getElem_replicate (n := 4) k.isLt

end Reset

/-- Settles O53: field by field from the definition of reset; the two banks at every index. -/
theorem resetLeavesTheTableValues : Obligations.ResetLeavesTheTableValues := by
  rintro c kb joy mx my mb p script _ rfl
  exact ⟨rfl, rfl, rfl, rfl, rfl, resetWith_kf c kb joy mx my mb p script, rfl, rfl, rfl, rfl, rfl, rfl, rfl, rfl, rfl,
    rfl, rfl, rfl, rfl, rfl, rfl, resetWith_btnBox c kb joy mx my mb p script, rfl, rfl⟩

end Sys2Proof.Machine

/-! PROOF. 20_memory R37, R38, R40: the address of a guest access selects one register, or none. -/

namespace Sys2Proof.Machine

/-! ### Reads -/

/-- Choosing the mouse register records nothing; the event of the read comes after it (20_memory R37, R44). -/
theorem mouseData_ev (s : State) : (mouseData s).2.ev = s.ev := by
  unfold mouseData
  split
  · rfl
  · split
    · rfl
    · split <;> rfl

/-- The read decoder has no arm for any other address, under every configuration (20_memory R37). -/
theorem ioRead_unmapped {a : Nat} {s : State} (hch : a ≠ s.cfg.chAddr) (hkb : ∀ i : Fin 8, a ≠ s.cfg.kbSel[i])
    (hjoy : a ≠ s.cfg.joyAddr) (hmouse : a ≠ s.cfg.mouseDataAddr) : ioRead a s = .error (.unmappedAccess a) := by
  have hrow : keyboardRow s.cfg a = none := keyboardRow_none ((notMem_kbSel_iff s.cfg a).mpr fun i => (hkb i).symm)
  simp only [ioRead, if_neg hch, hrow, if_neg hjoy, if_neg hmouse]

/-- Settles O40: each selected register by the read of its device, any other address by `ioRead_unmapped`. -/
theorem guestReadDecodesTheAddress : Obligations.GuestReadDecodesTheAddress := by
  intro s hwf
  refine ⟨ioRead_channel s, ioRead_keyboard hwf, ioRead_joystick hwf, ?mouse, fun _ => ioRead_unmapped⟩
  case mouse => rw [ioRead_mouse hwf, emitEvent, mouseData_ev]

/-! ### Writes -/

/-- The write decoder has no arm for any other address, under every configuration (20_memory R38). -/
theorem ioWrite_unmapped {a : Nat} {s : State} (v : Byte) (hch : a ≠ s.cfg.chAddr) (hsel : a ≠ s.cfg.mouseSelAddr) :
    ioWrite a v s = .error (.unmappedAccess a) := by
  rw [ioWrite, if_neg hch, if_neg hsel]

/-- Settles O42: a channel write by its two arms, acknowledgement and data; then the latch, and any other address. -/
theorem guestWriteDecodesTheAddress : Obligations.GuestWriteDecodesTheAddress := by
  intro s v hwf
  refine ⟨fun hpending => ?ack, fun hidle => ?data, ioWrite_mouseSel hwf v, fun _ => ioWrite_unmapped v⟩
  case ack => rw [ioWrite_channel, channelWrite_ack v hpending]
  case data => rw [ioWrite_channel, channelWrite_data v hidle]

end Sys2Proof.Machine

/-! PROOF. 30_encoding R54, R57: the fields of a word as numbers, the words each arm of the decoder refuses, and what the
step does with an illegal word and with a jump past the end. -/

namespace Sys2Proof

/-! ### The fields of a word -/

@[simp] theorem opField_toNat (w : Word) : (opField w).toNat = w.toNat / 256 := by
  have := w.isLt
  simp [opField, Nat.shiftRight_eq_div_pow]
  omega

@[simp] theorem argField_toNat (w : Word) : (argField w).toNat = w.toNat % 256 := by
  simp [argField]

theorem argField_eq_ofNat (w : Word) : argField w = BitVec.ofNat 8 w.toNat :=
  BitVec.eq_of_toNat_eq (by simp)

/-! ### The operand checks -/

theorem noOperand_refused_iff (i : Instr) (arg : Byte) : (∃ e, noOperand i arg = .error e) ↔ arg.toNat ≠ 0 := by
  have hzero : arg.toNat ≠ 0 ↔ arg ≠ 0 := not_congr (BitVec.toNat_inj (y := 0))
  rw [hzero]
  unfold noOperand
  split <;> simp_all

/-- The selector table ends at 0x17 (R58). -/
theorem selectorOf_eq_none_iff (n : Byte) : selectorOf n = none ↔ 0x18 ≤ n.toNat := by
  unfold selectorOf
  split
  case h_25 => simp only [true_iff, imp_false] at *; omega
  all_goals simp [*]

theorem decodeEmith_refused_iff (arg : Byte) : (∃ e, decodeEmith arg = .error e) ↔ 0x18 ≤ arg.toNat := by
  rw [← selectorOf_eq_none_iff]
  unfold decodeEmith
  cases selectorOf arg <;> simp

theorem decodePbtn_refused_iff (arg : Byte) : (∃ e, decodePbtn arg = .error e) ↔ 4 ≤ arg.toNat := by
  unfold decodePbtn
  split <;> simp <;> omega

/-! ### The arms of the decoder, by the opcode as a number -/

/-- The opcodes of the commands that take no operand. -/
def noOperandOps : List Nat := [0x01, 0x05, 0x06, 0x07, 0x08, 0x09, 0x0B]

theorem decode_noOperand {w : Word} (h : w.toNat / 256 ∈ noOperandOps) : ∃ i, decode w = noOperand i (argField w) := by
  simp only [noOperandOps, List.mem_cons, List.not_mem_nil, or_false] at h
  rcases h with h | h | h | h | h | h | h <;> exact ⟨_, by simp only [decode, opField_toNat, h]; rfl⟩

theorem decode_emitc {w : Word} (h : w.toNat / 256 = 0x02) : decode w = .ok (.emitc (argField w)) := by
  simp only [decode, opField_toNat, h]

theorem decode_emithi {w : Word} (h : w.toNat / 256 = 0x03) : decode w = .ok (.emithi (argField w)) := by
  simp only [decode, opField_toNat, h]

theorem decode_emith {w : Word} (h : w.toNat / 256 = 0x04) : decode w = decodeEmith (argField w) := by
  simp only [decode, opField_toNat, h]

theorem decode_pbtn {w : Word} (h : w.toNat / 256 = 0x0A) : decode w = decodePbtn (argField w) := by
  simp only [decode, opField_toNat, h]

theorem decode_jmp {w : Word} (h : w.toNat / 256 = 0x0C) : decode w = .ok (.jmp (argField w)) := by
  simp only [decode, opField_toNat, h]

theorem decode_reservedOpcode {w : Word} (h : w.toNat / 256 = 0 ∨ 0x0D ≤ w.toNat / 256) :
    decode w = .error .reservedOpcode := by
  unfold decode
  rw [opField_toNat]
  split
  case h_13 => rfl
  all_goals omega

/-- The refused words are R57's list: each arm of the decoder refuses by its own operand check. -/
theorem decode_refused_iff (w : Word) : (∃ e, decode w = .error e) ↔
    (w.toNat / 256 = 0x00 ∨ 0x0D ≤ w.toNat / 256
      ∨ (w.toNat / 256 ∈ noOperandOps ∧ w.toNat % 256 ≠ 0)
      ∨ (w.toNat / 256 = 0x04 ∧ 0x18 ≤ w.toNat % 256)
      ∨ (w.toNat / 256 = 0x0A ∧ 0x04 ≤ w.toNat % 256)) := by
  have hops : (w.toNat / 256 = 0x00 ∨ 0x0D ≤ w.toNat / 256) ∨ w.toNat / 256 ∈ noOperandOps ∨ w.toNat / 256 = 0x02
      ∨ w.toNat / 256 = 0x03 ∨ w.toNat / 256 = 0x04 ∨ w.toNat / 256 = 0x0A ∨ w.toNat / 256 = 0x0C := by
    simp only [noOperandOps, List.mem_cons, List.not_mem_nil, or_false]
    omega
  rcases hops with h | h | h | h | h | h | h
  · simp only [decode_reservedOpcode h, Except.error.injEq, exists_eq', true_iff]
    tauto
  · obtain ⟨i, hi⟩ := decode_noOperand h
    rw [hi, noOperand_refused_iff, argField_toNat]
    simp only [noOperandOps, List.mem_cons, List.not_mem_nil, or_false] at h ⊢
    omega
  · simp [decode_emitc h, h, noOperandOps]
  · simp [decode_emithi h, h, noOperandOps]
  · simp [decode_emith h, decodeEmith_refused_iff, h, noOperandOps]
  · simp [decode_pbtn h, decodePbtn_refused_iff, h, noOperandOps]
  · simp [decode_jmp h, h, noOperandOps]

end Sys2Proof

namespace Sys2Proof.Machine

/-! ### The step at the fetched word -/

/-- A running guest at an illegal word is not held, and its step is the fault entry (R57). -/
theorem step_of_illegal {s : State} {w : Word} {e : DecodeError} (hwf : s.cfg.wf = true) (hrun : s.run = .running)
    (hword : s.cfg.prog[s.pc]? = some w) (hdec : decode w = .error e) :
    step s = .next (raise (.illegalCommand w) s) := by
  have hfetch : fetch s = .illegal w := by rw [fetch_of_word hword, decoded_illegal hdec]
  have hheld : held s = false := by simp [held, hfetch]
  simp only [step_guest hwf hrun hheld, guestStep, hfetch]

/-- A running guest at a command is held only by a `WAIT` with `REL = 0`; otherwise its step is the command's meaning
(46_sequencer_loops R114). -/
theorem step_of_command {s : State} {w : Word} {i : Instr} (hwf : s.cfg.wf = true) (hrun : s.run = .running)
    (hword : s.cfg.prog[s.pc]? = some w) (hdec : decode w = .ok i) (hpass : i = .wait → s.rel ≠ 0) :
    step s = exec i s := by
  have hfetch : fetch s = .command i := by rw [fetch_of_word hword, decoded_command hdec]
  have hheld : held s = false := by simpa [held, hfetch, hrun] using hpass
  simp only [step_guest hwf hrun hheld, guestStep, hfetch]

theorem execJmp_badTarget {t : Byte} {s : State} (h : s.cfg.progLen ≤ t.toNat) :
    execJmp t s = .next (raise (.badTarget t) s) := by
  rw [execJmp, if_neg (by omega), complete_error]

/-- Settles O3: the refused words arm by arm of the decoder (`decode_refused_iff`), then the two fault entries. -/
theorem illegalWordsAreExactlyTheListed : Obligations.IllegalWordsAreExactlyTheListed := by
  refine ⟨decode_refused_iff, fun _ _ _ => step_of_illegal, ?jump⟩
  case jump =>
    intro s w hwf hrun hword hop htarget
    rw [← argField_eq_ofNat]
    refine ⟨decode_jmp hop, ?_⟩
    calc step s = execJmp (argField w) s := step_of_command hwf hrun hword (decode_jmp hop) nofun
      _ = .next (raise (.badTarget (argField w)) s) := execJmp_badTarget (by rwa [argField_toNat])

end Sys2Proof.Machine

/-! PROOF. 30_encoding R58: the register selectors, and the read `x[r]` of a register and of a view. -/

namespace Sys2Proof.Machine

/-! ### The selector in the word -/

/-- The word of `EMITH` with the selector number `n` is decoded by the selector table alone. -/
theorem decode_emithWord (n : Byte) : decode (0x0400 ||| n.setWidth 16) = decodeEmith n := by
  have hword : (0x0400 ||| n.setWidth 16 : Word).toNat = 0x0400 + n.toNat := by
    have hn : n.toNat < 2 ^ 8 := n.isLt
    rw [BitVec.toNat_or, BitVec.toNat_setWidth_of_le (by decide)]
    exact (Nat.two_pow_add_eq_or_of_lt hn 4).symm
  have harg : argField (0x0400 ||| n.setWidth 16) = n := by
    apply BitVec.eq_of_toNat_eq
    rw [argField_toNat, hword]
    omega
  rw [decode_emith (by rw [hword]; omega), harg]

/-! ### The views -/

/-- What the three view functions share: the current register is used first, then the previous one
(60_exceptions R130). -/
def registerDelta (delta : Byte → Byte → Int) (s : State) (cur prev : Reg) : Except FaultReason Int := do
  let c ← useReg s cur
  let p ← useReg s prev
  return delta c p

theorem xDiff_eq_registerDelta (s : State) : xDiff s = registerDelta signedDelta s .mx .pmx := rfl

theorem yDiff_eq_registerDelta (s : State) : yDiff s = registerDelta signedDelta s .my .pmy := rfl

theorem wheelDiff_eq_registerDelta (s : State) : wheelDiff s = registerDelta wheelDelta s .mb .pmb := rfl

/-- A view is the byte of the difference of its two registers, for each row of the table. -/
theorem readSelector_view (s : State) {sel : RegSel} {cur prev : Reg}
    (h : (sel, cur, prev) ∈ [(RegSel.dx, Reg.mx, Reg.pmx), (.dy, .my, .pmy), (.dw, .mb, .pmb)]) :
    ∃ delta, readSelector s sel = byteOfInt <$> registerDelta delta s cur prev := by
  simp only [List.mem_cons, List.not_mem_nil, or_false, Prod.mk.injEq] at h
  rcases h with ⟨rfl, rfl, rfl⟩ | ⟨rfl, rfl, rfl⟩ | ⟨rfl, rfl, rfl⟩
  · exact ⟨signedDelta, congrArg (byteOfInt <$> ·) (xDiff_eq_registerDelta s)⟩
  · exact ⟨signedDelta, congrArg (byteOfInt <$> ·) (yDiff_eq_registerDelta s)⟩
  · exact ⟨wheelDelta, congrArg (byteOfInt <$> ·) (wheelDiff_eq_registerDelta s)⟩

theorem registerDelta_unwritten (delta : Byte → Byte → Int) {s : State} {cur prev : Reg}
    (h : regHolds s cur = none ∨ regHolds s prev = none) :
    ∃ q, (q = cur ∨ q = prev) ∧ regHolds s q = none
      ∧ registerDelta delta s cur prev = .error (.unwrittenRegister q) := by
  cases hcur : regHolds s cur with
  | none => exact ⟨cur, .inl rfl, hcur, by rw [registerDelta, useReg_none hcur]; rfl⟩
  | some c =>
    have hprev : regHolds s prev = none := h.resolve_left (by simp [hcur])
    exact ⟨prev, .inr rfl, hprev, by rw [registerDelta, useReg_some hcur, useReg_none hprev]; rfl⟩

theorem registerDelta_written (delta : Byte → Byte → Int) {s : State} {cur prev : Reg}
    (hcur : regHolds s cur ≠ none) (hprev : regHolds s prev ≠ none) :
    ∃ d, registerDelta delta s cur prev = .ok d := by
  obtain ⟨c, hc⟩ := Option.ne_none_iff_exists'.mp hcur
  obtain ⟨p, hp⟩ := Option.ne_none_iff_exists'.mp hprev
  exact ⟨delta c p, by rw [registerDelta, useReg_some hc, useReg_some hp]; rfl⟩

/-- The byte of a delta that is there, and the fault of one that is not. -/
theorem map_byteOfInt (delta : Except FaultReason Int) :
    (∀ d, delta = .ok d → byteOfInt <$> delta = .ok (BitVec.ofInt 8 (d % 256)))
      ∧ ∀ f, delta = .error f → byteOfInt <$> delta = .error f :=
  ⟨fun _ h => by rw [h]; rfl, fun _ h => by rw [h]; rfl⟩

/-- Settles O5: the rows of the table by evaluation, the reserved numbers by where the table ends
(`selectorOf_eq_none_iff`), a register by the rules of its use, a view as the byte of the delta of its two registers. -/
theorem selectorTable : Obligations.SelectorTable := by
  refine ⟨by decide, by decide, fun s => ⟨fun _ => rfl, rfl⟩, ?reserved, fun _ _ _ => useReg_some,
    fun _ _ => useReg_none, ?views, ?deltas⟩
  case reserved =>
    intro n hn
    refine ⟨(selectorOf_eq_none_iff n).mpr hn, ?_⟩
    rw [decode_emithWord]
    exact (decodeEmith_refused_iff n).mpr hn
  case views =>
    intro s sel cur prev hrow
    obtain ⟨delta, hread⟩ := readSelector_view s hrow
    constructor
    · intro hnone
      obtain ⟨q, hq, hqnone, hdiff⟩ := registerDelta_unwritten delta hnone
      exact ⟨q, hq, hqnone, by rw [hread, hdiff]; rfl⟩
    · intro hcur hprev
      obtain ⟨d, hdiff⟩ := registerDelta_written delta hcur hprev
      exact ⟨byteOfInt d, by rw [hread, hdiff]; rfl⟩
  case deltas =>
    intro s
    obtain ⟨xByte, xFault⟩ := map_byteOfInt (xDiff s)
    obtain ⟨yByte, yFault⟩ := map_byteOfInt (yDiff s)
    obtain ⟨wheelByte, wheelFault⟩ := map_byteOfInt (wheelDiff s)
    exact ⟨xByte, yByte, wheelByte, xFault, yFault, wheelFault⟩

end Sys2Proof.Machine

/-! PROOF. 40_sync_channel R66, R67: both commands of the family are one channel write (20_memory R40) and the advance;
they differ in the poll before it. -/

namespace Sys2Proof.Machine

/-! ### The words -/

/-- The two fields of a command word do not overlap (30_encoding R54): `op` shifted up, joined with `arg`. -/
theorem encode_eq_or (i : Instr) : encode i = i.op.setWidth 16 <<< 8 ||| i.arg.setWidth 16 := by
  rw [encode, BitVec.append_def, BitVec.shiftLeftZeroExtend_eq, BitVec.setWidth'_eq]

/-! ### The channel write as the whole effect -/

/-- `EMITC`: the channel is always mapped, so the write answers and the command completes. -/
theorem execEmitc_eq (c : Byte) (s : State) : execEmitc c s = .next (advance (channelWrite c s)) := by
  rw [execEmitc, ioWrite_channel]
  rfl

/-- With a release pending the write is the acknowledgement (20_memory R40, first arm). -/
theorem advance_channelWrite_ack {s : State} (b : Byte) (h : s.rel ≠ 0) :
    advance (channelWrite b s) = { s with rel := 0, tx := some b, ev := s.ev ++ [.ack b], pc := s.pc + 1 } := by
  rw [channelWrite_ack b h, advance]

/-- With none pending the write is a data transmission (20_memory R40, second arm). -/
theorem advance_channelWrite_data {s : State} (b : Byte) (h : s.rel = 0) :
    advance (channelWrite b s) =
      { s with tx := some b, out := s.out ++ [b], ev := s.ev ++ [.data b], pc := s.pc + 1 } := by
  rw [channelWrite_data b h, advance]

/-! ### The commands -/

/-- Settles O12: by the poll (`execWait_eq`). A nonzero `REL` gives the acknowledgement with `ackByte`, which is 1; on 0
the guest is held. -/
theorem waitPassesOnReleaseOnly : Obligations.WaitPassesOnReleaseOnly := by
  refine ⟨by decide, fun s hpending => ?pass, fun s hidle => ?hold⟩
  case pass =>
    have hwait : exec .wait s = .next (advance (channelWrite ackByte s)) := (execWait_eq s).trans (if_neg hpending)
    exact hwait.trans (congrArg _ (advance_channelWrite_ack ackByte hpending))
  case hold => exact (execWait_eq s).trans (if_pos hidle)

/-- Settles O14: the word by its two fields, the effect by the two arms of the channel write (`execEmitc_eq`). -/
theorem emitcTransmitsOneByte : Obligations.EmitcTransmitsOneByte := by
  intro c s
  refine ⟨encode_eq_or (.emitc c), fun hidle => ?data, fun hpending => ?ack⟩
  case data => exact (execEmitc_eq c s).trans (congrArg _ (advance_channelWrite_data c hidle))
  case ack => exact (execEmitc_eq c s).trans (congrArg _ (advance_channelWrite_ack c hpending))

end Sys2Proof.Machine

/-! PROOF. 41_hex_encoder R71, R72: what the two channel writes of `emit(byte)` come to. The second always finds
`REL = 0`, so only the first can be an acknowledgement. -/

namespace Sys2Proof.Machine

/-! ### The two channel writes -/

/-- The pair that `hex2` names is the pair that is written, the high digit first. -/
theorem transmitHex_pair {b hi lo : Byte} (s : State) (hpair : hex2 b = [hi, lo]) :
    transmitHex b s = .ok (advance (channelWrite lo (channelWrite hi s))) := by
  obtain ⟨rfl, rfl⟩ : hexChar (highNibble b) = hi ∧ hexChar (lowNibble b) = lo := by simpa [hex2] using hpair
  exact transmitHex_eq b s

/-- With no release pending both writes are data transmissions (40_sync_channel R67). -/
theorem transmitHex_data {b hi lo : Byte} {s : State} (hpair : hex2 b = [hi, lo]) (h : s.rel = 0) :
    transmitHex b s = .ok { s with
      tx := some lo, out := s.out ++ [hi, lo], ev := s.ev ++ [.data hi, .data lo], pc := s.pc + 1 } := by
  rw [transmitHex_pair s hpair, advance_channelWrite_data lo (channelWrite_rel hi s), channelWrite_data hi h]
  simp only [List.append_assoc, List.cons_append, List.nil_append]

/-- With a release pending the first write is the acknowledgement, which clears `REL` (20_memory R40); the second is a
data transmission. -/
theorem transmitHex_ack {b hi lo : Byte} {s : State} (hpair : hex2 b = [hi, lo]) (h : s.rel ≠ 0) :
    transmitHex b s = .ok { s with
      rel := 0, tx := some lo, out := s.out ++ [lo], ev := s.ev ++ [.ack hi, .data lo], pc := s.pc + 1 } := by
  rw [transmitHex_pair s hpair, advance_channelWrite_data lo (channelWrite_rel hi s), channelWrite_ack hi h]
  simp only [List.append_assoc, List.cons_append, List.nil_append]

/-! ### The command -/

/-- `EMITHI` is the transmission of its operand. -/
theorem exec_emithi_of_transmitHex {b : Byte} {s t : State} (h : transmitHex b s = .ok t) :
    exec (.emithi b) s = .next t := by
  change complete s (transmitHex b s) = .next t
  rw [h, complete_ok]

/-- Settles O17: the word by its two fields, the effect by the first of the two channel writes, which is data or the
acknowledgement. -/
theorem emithiTransmitsTheHexPair : Obligations.EmithiTransmitsTheHexPair := by
  intro b hi lo s
  refine ⟨encode_eq_or (.emithi b), fun hpair hidle => ?data, fun hpair hpending => ?ack⟩
  case data => exact exec_emithi_of_transmitHex (transmitHex_data hpair hidle)
  case ack => exact exec_emithi_of_transmitHex (transmitHex_ack hpair hpending)

end Sys2Proof.Machine

/-! PROOF. 42_keyboard R76: a run of half-row reads over any list of rows, by induction on the list; the frame after it
holds the masked byte in every row of the list. `KSAMP` is the run over all eight. -/

namespace Sys2Proof.Machine

/-! ### The frame under a run of stores -/

/-- The frame after row `i` of each index of a list, in order, is set to `value i`. -/
def storeRows (value : Fin 8 → Option Byte) (frame : Vector (Option Byte) 8) (rows : List (Fin 8)) :
    Vector (Option Byte) 8 :=
  rows.foldl (fun (kf : Vector (Option Byte) 8) (i : Fin 8) => kf.set i (value i)) frame

theorem storeRows_cons (value : Fin 8 → Option Byte) (frame : Vector (Option Byte) 8) (i : Fin 8)
    (rows : List (Fin 8)) :
    storeRows value frame (i :: rows) = storeRows value (frame.set i (value i)) rows := rfl

/-- A listed row holds its value, since every store into a row stores the same one; the other rows keep theirs. -/
theorem getElem_storeRows (value : Fin 8 → Option Byte) (frame : Vector (Option Byte) 8) (rows : List (Fin 8))
    (j : Fin 8) : (storeRows value frame rows)[j] = if j ∈ rows then value j else frame[j] := by
  induction rows generalizing frame with
  | nil => simp [storeRows]
  | cons i rows ih =>
    rw [storeRows_cons, ih]
    by_cases hij : j = i
    · simp [hij]
    · have hset : (frame.set i (value i))[j] = frame[j] := Vector.getElem_set_ne _ _ fun e => hij (Fin.ext e.symm)
      simp only [hset, List.mem_cons, hij, false_or]

/-- Stores that reach every row replace the whole frame. -/
theorem storeRows_rowOrder (value : Fin 8 → Option Byte) (frame : Vector (Option Byte) 8) :
    storeRows value frame rowOrder = Vector.ofFn value := by
  ext j hj : 1
  calc (storeRows value frame rowOrder)[j] = value ⟨j, hj⟩ :=
        (getElem_storeRows value frame rowOrder ⟨j, hj⟩).trans (if_pos (mem_rowOrder ⟨j, hj⟩))
    _ = (Vector.ofFn value)[j] := (Vector.getElem_ofFn hj).symm

/-! ### The reads -/

/-- Reading a list of half-rows stores each masked byte and records each read, in the order of the list; a read changes
neither the device registers nor the selector table, so the later reads see the first state's. -/
theorem sampleRows_eq {s : State} (h : s.cfg.wf = true) (rows : List (Fin 8)) :
    rows.foldlM sampleRow s = .ok { s with
      kf := storeRows (fun i => some (maskRow s.devKb[i])) s.kf rows
      ev := s.ev ++ rows.map fun i => .devRd s.cfg.kbSel[i] s.devKb[i] } := by
  induction rows generalizing s with
  | nil => simp [storeRows, pure, Except.pure]
  | cons i rows ih =>
    simp only [List.foldlM_cons, sampleRow_eq h i, bind, Except.bind]
    rw [ih, storeRows_cons, List.map_cons, List.append_assoc, List.singleton_append]
    exact h

/-! ### The command -/

theorem rowOrder_eq_finRange : rowOrder = List.finRange 8 := by decide

theorem execKsamp_eq {s : State} (h : s.cfg.wf = true) :
    execKsamp s = .next { s with
      kf := Vector.ofFn fun i : Fin 8 => some (maskRow s.devKb[i])
      ev := s.ev ++ (List.finRange 8).map fun i => .devRd s.cfg.kbSel[i] s.devKb[i]
      pc := s.pc + 1 } := by
  rw [execKsamp, sampleRows_eq h, storeRows_rowOrder, rowOrder_eq_finRange]
  rfl

/-- Settles O21: the word by its two fields, the effect by the eight half-row reads (`sampleRows_eq`), which reach every
row of the frame; the mask is 0xE0. -/
theorem ksampFillsTheFrame : Obligations.KsampFillsTheFrame :=
  ⟨encode_eq_or .ksamp, fun _ => execKsamp_eq⟩

end Sys2Proof.Machine

/-! PROOF. 43_joystick R80: `JSAMP` is one read of the joystick address, which under a well-formed configuration selects
`DEV.JOY` and nothing else, then the store of that byte and the advance. -/

namespace Sys2Proof.Machine

/-- The read leaves every register but `EV` alone, so the store and the advance act on the state before it. -/
theorem execJsamp_eq {s : State} (h : s.cfg.wf = true) :
    execJsamp s =
      .next { s with joy := some s.devJoy, ev := s.ev ++ [.devRd s.cfg.joyAddr s.devJoy], pc := s.pc + 1 } := by
  rw [execJsamp, ioRead_joystick h]
  rfl

/-- Settles O23: the word is a closed fact, the effect the single read of `DEV.JOY` and the store of its byte
(`execJsamp_eq`). -/
theorem jsampStoresTheByteUnmodified : Obligations.JsampStoresTheByteUnmodified :=
  ⟨by decide, fun _ => execJsamp_eq⟩

end Sys2Proof.Machine

/-! PROOF. 44_mouse R83: `MSAMP` is three selector writes, each followed by the read of the register it selects, since
the selectors of a well-formed configuration are distinct. -/

namespace Sys2Proof.Machine

/-- The y conversion in 8 bits: `255 - raw` never borrows (44_mouse R84). -/
theorem flipY_eq (raw : Byte) : flipY raw = 255 - raw := by
  apply BitVec.eq_of_toNat_eq
  rw [flipY_toNat, BitVec.toNat_sub_of_le (by bv_omega)]
  rfl

/-- Each selected read leaves the configuration and the device registers alone, so the later ones see the first
state's. -/
theorem execMsamp_eq {s : State} (h : s.cfg.wf = true) :
    execMsamp s = .next { s with
      pmx := s.mx, pmy := s.my, pmb := s.mb
      mx := some s.devMx, my := some (255 - s.devMy), mb := some s.devMb
      devMsel := some s.cfg.mselB
      ev := s.ev ++
        [.devWr s.cfg.mouseSelAddr s.cfg.mselX, .devRd s.cfg.mouseDataAddr s.devMx,
         .devWr s.cfg.mouseSelAddr s.cfg.mselY, .devRd s.cfg.mouseDataAddr s.devMy,
         .devWr s.cfg.mouseSelAddr s.cfg.mselB, .devRd s.cfg.mouseDataAddr s.devMb]
      pc := s.pc + 1 } := by
  simp only [execMsamp, mouseRegister_x, mouseRegister_y, mouseRegister_b, afterMouseRead_cfg, h, bind, Except.bind,
    pure, Except.pure, complete_ok]
  simp only [afterMouseRead, advance, flipY_eq, List.append_assoc, List.cons_append, List.nil_append]

/-- Settles O24: the word is a closed fact, the effect the three selected reads (`execMsamp_eq`) with y converted. -/
theorem msampTakesASnapshot : Obligations.MsampTakesASnapshot :=
  ⟨by decide, fun _ => execMsamp_eq⟩

end Sys2Proof.Machine

/-! PROOF. 44_mouse R86, R87: `xDiff` and `yDiff` are one difference of two registers, of the pair of x and of the pair
of y. -/

namespace Sys2Proof.Machine

theorem sub8_toNat (a b : Byte) : (sub8 a b).toNat = (a.toNat + 256 - b.toNat) % 256 := by
  rw [sub8_eq, BitVec.toNat_sub]
  have hb : b.toNat < 256 := b.isLt
  omega

/-- The view functions on two registers that hold values. -/
theorem registerDelta_some (delta : Byte → Byte → Int) {s : State} {cur prev : Reg} {c p : Byte}
    (hcur : regHolds s cur = some c) (hprev : regHolds s prev = some p) :
    registerDelta delta s cur prev = .ok (delta c p) := by
  rw [registerDelta, useReg_some hcur, useReg_some hprev]
  rfl

/-- The signed difference of two registers, by the modulo-256 difference read as a signed byte. -/
theorem registerDelta_signed {s : State} {cur prev : Reg} {a b : Byte} {n : Nat}
    (hn : n = (a.toNat + 256 - b.toNat) % 256) (hcur : regHolds s cur = some a) (hprev : regHolds s prev = some b) :
    registerDelta signedDelta s cur prev = .ok (if n ≤ 127 then (n : Int) else (n : Int) - 256) := by
  rw [registerDelta_some signedDelta hcur hprev, signedDelta, sint8, sub8_toNat, ← hn]

theorem registerDelta_error (delta : Byte → Byte → Int) {s : State} {cur prev : Reg}
    (h : regHolds s cur = none ∨ regHolds s prev = none) : ∃ f, registerDelta delta s cur prev = .error f := by
  obtain ⟨q, -, -, hfault⟩ := registerDelta_unwritten delta h
  exact ⟨.unwrittenRegister q, hfault⟩

/-- Settles O26: both views are the signed difference of their two registers, with values (`registerDelta_signed`) and
without (`registerDelta_error`). -/
theorem deltasWrapAroundSigned : Obligations.DeltasWrapAroundSigned := by
  refine ⟨fun s a b n hn => ⟨?x, ?y⟩, fun s => ⟨?noX, ?noY⟩⟩
  case x => exact registerDelta_signed (cur := .mx) (prev := .pmx) hn
  case y => exact registerDelta_signed (cur := .my) (prev := .pmy) hn
  case noX => exact registerDelta_error signedDelta (cur := .mx) (prev := .pmx)
  case noY => exact registerDelta_error signedDelta (cur := .my) (prev := .pmy)

end Sys2Proof.Machine

/-! PROOF. 44_mouse R94, R95, R97: a `PSTEP` that completes has its three deltas; the new `PY` and `WPOS` are bytes made
of integers that the wrap and the clamp keep in range. -/

namespace Sys2Proof.Machine

/-! ### The wrap and the clamp -/

theorem wrapY_above {y : Int} (h : 191 < y) : wrapY y = 1 := if_pos h

theorem wrapY_below {y : Int} (h : y < 0) : wrapY y = 192 :=
  (if_neg (show ¬ y > 191 by omega)).trans (if_pos h)

theorem wrapY_inside {y : Int} (h0 : 0 ≤ y) (h1 : y ≤ 191) : wrapY y = y :=
  (if_neg (show ¬ y > 191 by omega)).trans (if_neg (show ¬ y < 0 by omega))

theorem movePositions_py (dx dy dw : Int) (s : State) :
    (movePositions dx dy dw s).py = BitVec.ofInt 8 (wrapY (s.py.toNat + dy)) := rfl

/-- The clamp leaves the wheel in the range of a byte, so the byte is the clamped integer. -/
theorem movePositions_wpos_toNat (dx dy dw : Int) (s : State) :
    ((movePositions dx dy dw s).wpos.toNat : Int) = max 0 (min 191 (s.wpos.toNat + dw)) := by
  have hlow : 0 ≤ clampWheel (s.wpos.toNat + dw) := by rw [clampWheel_eq]; omega
  have hhigh : clampWheel (s.wpos.toNat + dw) ≤ 255 := by rw [clampWheel_eq]; omega
  exact (toNat_ofInt_of_range _ hlow hhigh).trans (clampWheel_eq _)

/-! ### The command -/

/-- All that `PSTEP` can do: the three deltas have values and the positions move, or it faults at the state before. -/
theorem execPstep_next {s t : State} (h : execPstep s = .next t) :
    (∃ dx dy dw, xDiff s = .ok dx ∧ yDiff s = .ok dy ∧ wheelDiff s = .ok dw
      ∧ t = advance (movePositions dx dy dw s)) ∨ ∃ f, t = raise f s := by
  obtain hok | ⟨f, -, rfl⟩ := complete_next h
  · obtain ⟨dx, hdx, hok⟩ := bind_eq_ok hok
    obtain ⟨dy, hdy, hok⟩ := bind_eq_ok hok
    obtain ⟨dw, hdw, hok⟩ := bind_eq_ok hok
    exact .inl ⟨dx, dy, dw, hdx, hdy, hdw, (Except.ok.inj hok).symm⟩
  · exact .inr ⟨f, rfl⟩

/-- Settles O54: the step has its deltas (`execPstep_next`), since a fault would leave `pc`; then `PY` by the three
cases of the wrap and `WPOS` by the clamp. -/
theorem pstepWrapsYAndClampsTheWheel : Obligations.PstepWrapsYAndClampsTheWheel := by
  intro s t hexec hmoved
  obtain ⟨dx, dy, dw, -, hdy, hdw, rfl⟩ | ⟨f, rfl⟩ := execPstep_next hexec
  case inr => exact absurd (raise_pc f s) hmoved
  have hpy : (advance (movePositions dx dy dw s)).py = BitVec.ofInt 8 (wrapY (s.py.toNat + dy)) :=
    movePositions_py dx dy dw s
  refine ⟨⟨dy, hdy, fun habove => ?above, fun hbelow => ?below, fun h0 h1 => ?inside⟩, dw, hdw,
    movePositions_wpos_toNat dx dy dw s⟩
  case above => rw [hpy, wrapY_above habove]; rfl
  case below => rw [hpy, wrapY_below hbelow]; rfl
  case inside => rw [hpy, wrapY_inside h0 h1, toNat_ofInt_of_range _ h0 (by omega)]

end Sys2Proof.Machine

/-! PROOF. 45_cursor_renderer R102, R109, R111: the three drawing commands. Each uses its registers first and raises on
one without a value; with values, `RENDER` is a blit and `PBTN` and `PSCR` are one call on their box. -/

namespace Sys2Proof.Machine

/-! ### The two passes on the plane -/

/-- Net effect of the two passes on every pixel (45_cursor_renderer R102). -/
theorem pixLit_blit (p n c : Pixel) (s : State) :
    pixLit (blit p n s).pix c =
      ((pixLit s.pix c && !(member s.cfg p c && !member s.cfg n c)) || member s.cfg n c) := by
  have hset : decide (c ∈ setCells s.cfg n) = member s.cfg n c := by simp [mem_setCells]
  have hcleared : decide (c ∈ clearedCells s.cfg p n) = (member s.cfg p c && !member s.cfg n c) := by
    rw [Bool.eq_iff_iff]
    simp [mem_clearedCells]
  rw [blit_eq, pixLit_foldl_insert, pixLit_foldl_erase, hset, hcleared, Bool.or_comm]

/-! ### `RENDER` -/

/-- With values in `PPX` and `PPY`, `RENDER` is the blit from the previous anchor to the current one. -/
theorem execRender_eq {s : State} {ox oy : Byte} (hx : s.ppx = some ox) (hy : s.ppy = some oy) :
    execRender s = .next (advance (blit (anchor ox oy) (anchor s.px s.py) s)) := by
  rw [execRender, useReg_some (r := .ppx) hx, useReg_some (r := .ppy) hy]
  rfl

theorem execRender_ppx_none {s : State} (hx : s.ppx = none) :
    execRender s = .next (raise (.unwrittenRegister .ppx) s) := by
  rw [execRender, useReg_none (r := .ppx) hx]
  rfl

theorem execRender_ppy_none {s : State} {ox : Byte} (hx : s.ppx = some ox) (hy : s.ppy = none) :
    execRender s = .next (raise (.unwrittenRegister .ppy) s) := by
  rw [execRender, useReg_some (r := .ppx) hx, useReg_none (r := .ppy) hy]
  rfl

/-- Settles O32: the events and the frame by what a blit does (`blit_eq`), the plane pixel by pixel (`pixLit_blit`), the
fault by the first of the two coordinates that holds no value. -/
theorem renderBlitsTheSprite : Obligations.RenderBlitsTheSprite := by
  refine ⟨by decide, ?blit, ?fault⟩
  case blit =>
    rintro s ox oy p n hx hy rfl rfl
    refine ⟨(blit (anchor ox oy) (anchor s.px s.py) s).pix, ?_, fun c => pixLit_blit _ _ c s⟩
    refine (execRender_eq hx hy).trans (congrArg Host.Outcome.next ?_)
    rw [blit_eq]
    rfl
  case fault =>
    intro s hnone
    obtain hx | ⟨ox, hx⟩ := Option.eq_none_or_eq_some s.ppx
    · exact ⟨.ppx, .inl rfl, hx, execRender_ppx_none hx⟩
    · have hy : s.ppy = none := hnone.resolve_left (by simp [hx])
      exact ⟨.ppy, .inr rfl, hy, execRender_ppy_none hx hy⟩

/-! ### `PBTN` -/

theorem button_some {s : State} {b : Byte} (k : Fin 4) (h : s.mb = some b) : button s k = .ok (buttonFlag b k) := by
  rw [button, useReg_some (r := .mb) h]
  rfl

theorem button_none {s : State} (k : Fin 4) (h : s.mb = none) : button s k = .error (.unwrittenRegister .mb) := by
  rw [button, useReg_none (r := .mb) h]
  rfl

theorem execPbtn_eq {s : State} {b : Byte} (k : Fin 4) (h : s.mb = some b) :
    execPbtn k s = .next (advance (buttonBox k (buttonFlag b k) s)) := by
  rw [execPbtn, button_some k h]
  rfl

theorem execPbtn_mb_none {s : State} (k : Fin 4) (h : s.mb = none) :
    execPbtn k s = .next (raise (.unwrittenRegister .mb) s) := by
  rw [execPbtn, button_none k h]
  rfl

/-- The two fields of a word made of them (30_encoding R54). -/
theorem fields_append (op arg : Byte) : opField (op ++ arg) = op ∧ argField (op ++ arg) = arg :=
  ⟨BitVec.extractLsb'_append_eq_left, BitVec.extractLsb'_append_eq_right⟩

/-- The word of `PBTN` with the number `n` is decoded by the check of the button index alone. -/
theorem decode_pbtnWord (n : Byte) : decode (0x0A00 ||| n.setWidth 16) = decodePbtn n := by
  have hword : 0x0A00 ||| n.setWidth 16 = (0x0A : Byte) ++ n := by
    rw [BitVec.append_def, BitVec.shiftLeftZeroExtend_eq, BitVec.setWidth'_eq]
    rfl
  obtain ⟨hop, harg⟩ := fields_append 0x0A n
  rw [hword, decode_pbtn (by rw [← opField_toNat, hop]; rfl), harg]

/-- Settles O36: the four words are closed facts; the box by the button query, which uses `MB` (`execPbtn_eq`); a larger index
by the decoder's check of it (`decodePbtn_refused_iff`). -/
theorem pbtnPaintsTheButtonFlag : Obligations.PbtnPaintsTheButtonFlag := by
  refine ⟨fun k s => ⟨?word, fun b => execPbtn_eq k, execPbtn_mb_none k⟩, ?illegal⟩
  case word => revert k; decide
  case illegal =>
    intro n s hn hwf hrun hword
    obtain ⟨e, he⟩ := (decodePbtn_refused_iff n).mpr hn
    exact step_of_illegal hwf hrun hword ((decode_pbtnWord n).trans he)

/-! ### `PSCR` -/

theorem execPscr_eq {s : State} {a : Byte} (h : s.pwpos = some a) :
    execPscr s = .next (advance (scrollBox a.toNat s.wpos.toNat s)) := by
  rw [execPscr, useReg_some (r := .pwpos) h]
  rfl

theorem execPscr_pwpos_none {s : State} (h : s.pwpos = none) :
    execPscr s = .next (raise (.unwrittenRegister .pwpos) s) := by
  rw [execPscr, useReg_none (r := .pwpos) h]
  rfl

/-- Settles O37: the word is a closed fact, the effect the one call on the scroll box (`execPscr_eq`), or the fault of
the previous position. -/
theorem pscrPaintsTheWheelPosition : Obligations.PscrPaintsTheWheelPosition :=
  ⟨by decide, fun _ _ => execPscr_eq, fun _ => execPscr_pwpos_none⟩

end Sys2Proof.Machine

/-! PROOF. 46_sequencer_loops R116: the two arms of `JMP`, on the two sides of `PROGLEN`. The faulting arm is
`execJmp_badTarget`, proved with the decoder's fault entries. -/

namespace Sys2Proof.Machine

/-- Below `PROGLEN` the jump completes, and the target is its whole effect. -/
theorem execJmp_taken {t : Byte} {s : State} (h : t.toNat < s.cfg.progLen) :
    execJmp t s = .next { s with pc := t.toNat } := by
  rw [execJmp, if_pos h, complete_ok]

/-- Settles O38: the word by its two fields, the effect by the two arms of the bound check (`execJmp_taken`,
`execJmp_badTarget`). -/
theorem jmpSetsPcOrFaults : Obligations.JmpSetsPcOrFaults := by
  intro t s
  refine ⟨encode_eq_or (.jmp t), fun hinside => ?taken, fun houtside => ?badTarget⟩
  case taken => exact execJmp_taken hinside
  case badTarget => exact execJmp_badTarget houtside

end Sys2Proof.Machine

/-! PROOF. 30_encoding R54 to R58: encoding and decoding are inverse. A word is its two fields, and each arm of the
decoder reads the argument back as `Instr.arg` writes it. -/

namespace Sys2Proof

/-! ### The fields of an encoded command -/

theorem opField_encode (i : Instr) : opField (encode i) = i.op := (Machine.fields_append i.op i.arg).1

theorem argField_encode (i : Instr) : argField (encode i) = i.arg := (Machine.fields_append i.op i.arg).2

theorem opField_append_argField (w : Word) : opField w ++ argField w = w := by
  apply BitVec.eq_of_toNat_eq
  rw [BitVec.toNat_append, opField_toNat, argField_toNat, ← Nat.shiftLeft_add_eq_or_of_lt (by omega), Nat.shiftLeft_eq]
  omega

/-- A command with the two fields of a word is encoded as that word. -/
theorem encode_of_fields {w : Word} {i : Instr} (hop : i.op = opField w) (harg : i.arg = argField w) : encode i = w := by
  rw [encode, hop, harg, opField_append_argField]

/-! ### The operands -/

/-- Every register and view has the selector number the table reads back (R58). -/
theorem selectorOf_number (r : RegSel) : selectorOf r.number = some r := by
  rcases r with r | _ | _ | _
  · cases r with
    | kf i => revert i; decide
    | _ => rfl
  all_goals rfl

/-- A selector number that names something is that thing's number (R58). -/
theorem number_of_selectorOf : ∀ n : Byte, ∀ r ∈ selectorOf n, r.number = n := by decide

theorem decodeEmith_number (r : RegSel) : decodeEmith r.number = .ok (.emith r) := by
  rw [decodeEmith, selectorOf_number]

theorem decodePbtn_index (k : Fin 4) : decodePbtn (BitVec.ofNat 8 k.val) = .ok (.pbtn k) := by
  revert k; decide

theorem noOperand_ok {i j : Instr} {arg : Byte} (h : noOperand i arg = .ok j) : j = i ∧ arg = 0 := by
  unfold noOperand at h
  split at h
  · rename_i hzero; exact ⟨(Except.ok.inj h).symm, hzero⟩
  · cases h

theorem decodeEmith_ok {i : Instr} {arg : Byte} (h : decodeEmith arg = .ok i) : ∃ r, i = .emith r ∧ r.number = arg := by
  unfold decodeEmith at h
  split at h
  · rename_i r hr; exact ⟨r, (Except.ok.inj h).symm, number_of_selectorOf arg r hr⟩
  · cases h

theorem decodePbtn_ok {i : Instr} {arg : Byte} (h : decodePbtn arg = .ok i) :
    ∃ k : Fin 4, i = .pbtn k ∧ BitVec.ofNat 8 k.val = arg := by
  unfold decodePbtn at h
  split at h
  · rename_i hk; exact ⟨⟨arg.toNat, hk⟩, (Except.ok.inj h).symm, by simp⟩
  · cases h

/-! ### The round trips -/

/-- Settles O1: the decoder sees the two fields of the encoding; each operand is read back as it was written. -/
theorem decodeEncodeRoundTrip : Obligations.DecodeEncodeRoundTrip := by
  intro i
  unfold decode
  rw [opField_encode, argField_encode]
  cases i with
  | emith r => exact decodeEmith_number r
  | pbtn k => exact decodePbtn_index k
  | _ => rfl

/-- The arm of a command without operand: the opcode has to be the command's. -/
theorem fields_of_noOperand {w : Word} {i j : Instr} (h : noOperand j (argField w) = .ok i)
    (hop : (opField w).toNat = j.op.toNat) (hzero : j.arg = 0) : i.op = opField w ∧ i.arg = argField w := by
  obtain ⟨rfl, harg⟩ := noOperand_ok h
  exact ⟨BitVec.eq_of_toNat_eq hop.symm, hzero.trans harg.symm⟩

/-- What an accepted word says of its command: the command has the word's fields. -/
theorem fields_of_decode {w : Word} {i : Instr} (h : decode w = .ok i) : i.op = opField w ∧ i.arg = argField w := by
  unfold decode at h
  split at h
  case h_2 hop | h_3 hop | h_12 hop =>
    cases h
    exact ⟨BitVec.eq_of_toNat_eq hop.symm, rfl⟩
  case h_4 hop =>
    obtain ⟨r, rfl, hr⟩ := decodeEmith_ok h
    exact ⟨BitVec.eq_of_toNat_eq hop.symm, hr⟩
  case h_10 hop =>
    obtain ⟨k, rfl, hk⟩ := decodePbtn_ok h
    exact ⟨BitVec.eq_of_toNat_eq hop.symm, hk⟩
  case h_13 => cases h
  all_goals (rename_i hop; exact fields_of_noOperand h hop rfl)

/-- Settles O2: a word is its two fields, and they are the command's. -/
theorem encodeDecodeRoundTrip : Obligations.EncodeDecodeRoundTrip := by
  intro w i h
  obtain ⟨hop, harg⟩ := fields_of_decode h
  exact encode_of_fields hop harg

/-- Settles O4: a legal word is the encoding of its command, so it decodes by the round trip; the five neighbours are
closed facts. -/
theorem writtenOutWordsDecode : Obligations.WrittenOutWordsDecode :=
  ⟨decodeEncodeRoundTrip .wait, decodeEncodeRoundTrip (.emitc 0x2C), decodeEncodeRoundTrip (.emithi 0xA5),
    decodeEncodeRoundTrip (.emith (.reg .pwpos)), decodeEncodeRoundTrip .ksamp, decodeEncodeRoundTrip .jsamp,
    decodeEncodeRoundTrip .msamp, decodeEncodeRoundTrip .pstep, decodeEncodeRoundTrip .render,
    decodeEncodeRoundTrip (.pbtn 2), decodeEncodeRoundTrip .pscr, decodeEncodeRoundTrip (.jmp 0xFF),
    by decide, by decide, by decide, by decide, by decide⟩

end Sys2Proof

/-! PROOF. 41_hex_encoder R71 to R75 and the views of 44_mouse R86 to R89: the characters of a byte, the wheel counter's
difference, and what `EMITH` transmits. -/

namespace Sys2Proof.Machine

/-! ### The characters -/

/-- The alphabet of 30_encoding R59, as the statement writes it out. -/
theorem hexChar_eq_getElem? (n : BitVec 4) : some (hexChar n) =
    ([0x30, 0x31, 0x32, 0x33, 0x34, 0x35, 0x36, 0x37, 0x38, 0x39, 0x41, 0x42, 0x43, 0x44, 0x45, 0x46] :
      List Byte)[n.toNat]? := by
  revert n; decide

theorem unhex_hexChar (n : BitVec 4) : unhex (hexChar n) = n.toNat := by revert n; decide

theorem highNibble_toNat (b : Byte) : (highNibble b).toNat = b.toNat / 16 := by
  have hb : b.toNat < 256 := b.isLt
  simp only [highNibble, BitVec.extractLsb'_toNat, Nat.shiftRight_eq_div_pow]
  omega

theorem lowNibble_toNat (b : Byte) : (lowNibble b).toNat = b.toNat % 16 := by
  simp [lowNibble]

/-- Settles O15: each character is the alphabet's symbol of its nibble, and the nibbles are the quotient and the
remainder by 16. -/
theorem hexPairCharacters : Obligations.HexPairCharacters := by
  intro b
  simp only [hex2, List.map_cons, List.map_nil, hexChar_eq_getElem?, highNibble_toNat, lowNibble_toNat]

/-- The host's decoding of the pair (41_hex_encoder R75). -/
theorem unhex_hex2 (b : Byte) : (hex2 b).foldl (fun n c => 16 * n + unhex c) 0 = b.toNat := by
  simp only [hex2, List.foldl_cons, List.foldl_nil, unhex_hexChar, highNibble_toNat, lowNibble_toNat]
  omega

/-- Settles O16: the pair is decoded digit by digit (`unhex_hex2`), and what is decoded from equal pairs is equal. -/
theorem hexRoundTrip : Obligations.HexRoundTrip := by
  refine ⟨unhex_hex2, fun a b hpair => BitVec.eq_of_toNat_eq ?_⟩
  rw [← unhex_hex2 a, hpair, unhex_hex2 b]

/-! ### The wheel counter's difference -/

theorem wheelCounter_toNat (b : Byte) : (wheelCounter b).toNat = b.toNat / 16 := highNibble_toNat b

/-- The mask keeps the high nibble in its place. -/
theorem toNat_and_highMask (b : Byte) : (b &&& 0xF0).toNat = 16 * (b.toNat / 16) := by revert b; decide

/-- The nibble form of the wheel delta (44_mouse R89): the masked bytes differ by 16 times the difference of the nibbles. -/
theorem wheelDelta_eq_nibble {c p : Byte} {n : Nat} (hn : n = (c.toNat / 16 + 16 - p.toNat / 16) % 16) :
    wheelDelta c p = if n ≤ 7 then (n : Int) else (n : Int) - 16 := by
  have hsub : (sub8 (c &&& 0xF0) (p &&& 0xF0)).toNat = 16 * n := by
    have hc : c.toNat < 256 := c.isLt
    have hp : p.toNat < 256 := p.isLt
    rw [sub8_toNat, toNat_and_highMask, toNat_and_highMask]
    omega
  rw [wheelDelta, sint8, hsub]
  split <;> split <;> omega

theorem wheelDelta_eq_toInt (c p : Byte) : wheelDelta c p = (wheelCounter c - wheelCounter p).toInt := by
  have hn : (wheelCounter c - wheelCounter p).toNat = (c.toNat / 16 + 16 - p.toNat / 16) % 16 := by
    have hp : p.toNat < 256 := p.isLt
    rw [BitVec.toNat_sub, wheelCounter_toNat, wheelCounter_toNat]
    omega
  rw [wheelDelta_eq_nibble hn, BitVec.toInt_eq_toNat_cond]
  split <;> split <;> omega

theorem wheelDiff_some {s : State} {cur prev : Byte} (hcur : s.mb = some cur) (hprev : s.pmb = some prev) :
    wheelDiff s = .ok (wheelDelta cur prev) := registerDelta_some wheelDelta (cur := .mb) (prev := .pmb) hcur hprev

/-- Settles O27: with values the view is the wheel delta, in its nibble form; without, `registerDelta_error`. -/
theorem wheelDeltaIsANibbleDifference : Obligations.WheelDeltaIsANibbleDifference := by
  refine ⟨fun s a b n hmb hpmb hn => ?_, fun s => registerDelta_error wheelDelta (cur := .mb) (prev := .pmb)⟩
  rw [wheelDiff_some hmb hpmb, wheelDelta_eq_nibble hn]

/-! ### The views as bytes -/

theorem byteOfInt_eq (v : Int) : byteOfInt v = BitVec.ofInt 8 v := by
  apply BitVec.eq_of_toNat_eq
  rw [byteOfInt, BitVec.toNat_ofInt, BitVec.toNat_ofInt]
  omega

theorem byteOfInt_wheelDelta (c p : Byte) :
    byteOfInt (wheelDelta c p) = (wheelCounter c - wheelCounter p).signExtend 8 := by
  rw [wheelDelta_eq_toInt, byteOfInt_eq, BitVec.signExtend]

theorem xDiff_some {s : State} {cur prev : Byte} (hcur : s.mx = some cur) (hprev : s.pmx = some prev) :
    xDiff s = .ok (signedDelta cur prev) := registerDelta_some signedDelta (cur := .mx) (prev := .pmx) hcur hprev

theorem yDiff_some {s : State} {cur prev : Byte} (hcur : s.my = some cur) (hprev : s.pmy = some prev) :
    yDiff s = .ok (signedDelta cur prev) := registerDelta_some signedDelta (cur := .my) (prev := .pmy) hcur hprev

theorem readSelector_dx {s : State} {cur prev : Byte} (hcur : s.mx = some cur) (hprev : s.pmx = some prev) :
    readSelector s .dx = .ok (cur - prev) := by
  rw [readSelector, xDiff_some hcur hprev, ← byteOfInt_signedDelta]
  rfl

theorem readSelector_dy {s : State} {cur prev : Byte} (hcur : s.my = some cur) (hprev : s.pmy = some prev) :
    readSelector s .dy = .ok (cur - prev) := by
  rw [readSelector, yDiff_some hcur hprev, ← byteOfInt_signedDelta]
  rfl

theorem readSelector_dw {s : State} {cur prev : Byte} (hcur : s.mb = some cur) (hprev : s.pmb = some prev) :
    readSelector s .dw = .ok ((wheelCounter cur - wheelCounter prev).signExtend 8) := by
  rw [readSelector, wheelDiff_some hcur hprev, ← byteOfInt_wheelDelta]
  rfl

/-! ### `EMITH` -/

/-- After the read of its operand `EMITH` is `EMITHI` of the byte (41_hex_encoder R73). -/
theorem exec_emith_of_read {r : RegSel} {b : Byte} {s : State} (h : readSelector s r = .ok b) :
    exec (.emith r) s = exec (.emithi b) s := by
  change execEmith r s = execEmithi b s
  rw [execEmith, h]
  rfl

theorem exec_emith_of_fault {r : RegSel} {f : FaultReason} {s : State} (h : readSelector s r = .error f) :
    exec (.emith r) s = .next (raise f s) := by
  change execEmith r s = _
  rw [execEmith, h]
  rfl

/-- `EMITHI` with no release pending, in terms of the pair as a list. -/
theorem exec_emithi_data (b : Byte) {s : State} (h : s.rel = 0) :
    exec (.emithi b) s = .next { s with
      tx := (hex2 b)[1]?, out := s.out ++ hex2 b, ev := s.ev ++ (hex2 b).map .data, pc := s.pc + 1 } :=
  exec_emithi_of_transmitHex (transmitHex_data rfl h)

/-- Settles O18: a register that holds a value is read as it, and the transmission is `EMITHI`'s. -/
theorem emithTransmitsARegister : Obligations.EmithTransmitsARegister := by
  intro r b hi lo s hr hpair
  have hread : exec (.emith (.reg r)) s = exec (.emithi b) s := exec_emith_of_read (useReg_some hr)
  obtain ⟨-, hdata, hack⟩ := emithiTransmitsTheHexPair b hi lo s
  exact ⟨fun hidle => hread.trans (hdata hpair hidle), fun hpending => hread.trans (hack hpair hpending)⟩

/-- Settles O19: each view is read as the byte of its difference (`readSelector_dx`, `readSelector_dy`,
`readSelector_dw`), and the transmission is `EMITHI`'s. -/
theorem emithTransmitsTheSignedViews : Obligations.EmithTransmitsTheSignedViews := by
  refine ⟨fun s cur prev hidle => ⟨fun hcur hprev => ?x, fun hcur hprev => ?y, fun hcur hprev => ?w⟩,
    fun s cur prev _ => ⟨fun hcur hprev => exec_emith_of_read (readSelector_dx hcur hprev),
      fun hcur hprev => exec_emith_of_read (readSelector_dy hcur hprev),
      fun hcur hprev => exec_emith_of_read (readSelector_dw hcur hprev)⟩⟩
  case x => exact (exec_emith_of_read (readSelector_dx hcur hprev)).trans (exec_emithi_data _ hidle)
  case y => exact (exec_emith_of_read (readSelector_dy hcur hprev)).trans (exec_emithi_data _ hidle)
  case w => exact (exec_emith_of_read (readSelector_dw hcur hprev)).trans (exec_emithi_data _ hidle)

/-- The register a difference names in its fault: the current one if it has no value, else the previous one. -/
theorem registerDelta_names (delta : Byte → Byte → Int) (s : State) (cur prev : Reg) :
    (regHolds s cur = none → registerDelta delta s cur prev = .error (.unwrittenRegister cur))
      ∧ (regHolds s cur ≠ none → regHolds s prev = none →
        registerDelta delta s cur prev = .error (.unwrittenRegister prev)) := by
  refine ⟨fun hcur => ?_, fun hcur hprev => ?_⟩
  · rw [registerDelta, useReg_none hcur]; rfl
  · obtain ⟨c, hc⟩ := Option.ne_none_iff_exists'.mp hcur
    rw [registerDelta, useReg_some hc, useReg_none hprev]; rfl

/-- Settles O20: the fault of the read is the command's; a view is read through the difference of its two registers. -/
theorem emithFaultsOnAnUnwrittenOperand : Obligations.EmithFaultsOnAnUnwrittenOperand := by
  refine ⟨fun s r hr => exec_emith_of_fault (useReg_none hr), fun s sel cur prev hrow => ?_⟩
  obtain ⟨delta, hread⟩ := readSelector_view s hrow
  obtain ⟨hcur, hprev⟩ := registerDelta_names delta s cur prev
  exact ⟨fun h => exec_emith_of_fault (by rw [hread, hcur h]; rfl),
    fun h k => exec_emith_of_fault (by rw [hread, hprev h k]; rfl)⟩

end Sys2Proof.Machine

/-! PROOF. 46_sequencer_loops R114, R117, 60_exceptions R131, 20_memory R41, 40_sync_channel R68: which agent steps, and
the word the next step fetches. -/

namespace Sys2Proof.Machine

/-! ### The running guest, the end of a run and a fault -/

/-- Settles O7: `step_of_command`. -/
theorem stepRunsTheFetchedCommand : Obligations.StepRunsTheFetchedCommand :=
  fun _ _ _ hwf hrun hword hdec hpass => step_of_command hwf hrun hword hdec hpass

theorem fetch_at_progLen {s : State} (h : s.pc = s.cfg.progLen) : fetch s = .endOfProgram := by
  have hnone : s.cfg.prog[s.pc]? = none := List.getElem?_eq_none h.ge
  simp only [fetch, hnone, if_pos h]

theorem step_of_done {s : State} (hwf : s.cfg.wf = true) (h : s.run = .done) : step s = .fault .ended := by
  simp only [step, machineStep, hwf, if_true, h]

theorem step_of_faulted {s : State} {r : FaultReason} (hwf : s.cfg.wf = true) (h : s.run = .faulted r) :
    step s = .fault (.faulted r) := by
  simp only [step, machineStep, hwf, if_true, h]

/-- Settles O8: at `PROGLEN` no `WAIT` is fetched, so the guest steps, and its step ends the run; then `step_of_done`. -/
theorem endOfRunIsFinal : Obligations.EndOfRunIsFinal := by
  refine ⟨fun s hwf hrun hpc => ?_, fun _ => step_of_done⟩
  have hfetch : fetch s = .endOfProgram := fetch_at_progLen hpc
  have hheld : held s = false := by simp [held, hfetch]
  rw [step_guest hwf hrun hheld, guestStep, hfetch]

/-- Settles O9: `step_of_faulted`. -/
theorem faultedMachineIsQuiescent : Obligations.FaultedMachineIsQuiescent := fun _ _ => step_of_faulted

/-! ### The host at a hold -/

/-- A running guest at the word of `WAIT` with `REL = 0` is held. -/
theorem held_of_wait {s : State} (hrun : s.run = .running) (hword : s.cfg.prog[s.pc]? = some 0x0100) (hrel : s.rel = 0) :
    held s = true := by
  have hfetch : fetch s = .command .wait := (fetch_of_word hword).trans (by decide)
  exact (held_iff s).mpr ⟨hrun, hfetch, hrel⟩

/-- Settles O10: the guest is held (`held_of_wait`), so the step is the host's turn, one arm for each kind of host step;
what a list of changes comes to is `foldl_changeDevice_eq`. -/
theorem hostActsAtAHold : Obligations.HostActsAtAHold := by
  intro s hwf hrun hword hrel
  rw [step_held hwf (held_of_wait hrun hword hrel)]
  refine ⟨fun h => ?empty, fun v rest hv h => ?release, fun rest h => ?zero, fun rest h => ?observe,
    fun cs rest h => ?dev⟩
  case empty => rw [hostTurn, h]
  case release => simp only [hostTurn, h, if_neg hv]; rfl
  case zero => simp only [hostTurn, h, if_true]
  case observe => simp only [hostTurn, h]
  case dev => simp only [hostTurn, h, hostDev, foldl_changeDevice_eq, emitEvent]

/-- The host's turn takes the first step off its script. -/
theorem hostTurn_script {s t : State} (h : hostTurn s = .next t) : ∃ first, s.script = first :: t.script := by
  rcases hostTurn_next h with ⟨v, rest, hs, -, rfl⟩ | ⟨cs, rest, hs, rfl⟩ | ⟨rest, hs, rfl⟩
  · exact ⟨_, hs⟩
  · exact ⟨.dev cs, hs.trans (by rw [hostDev, foldl_changeDevice_eq]; rfl)⟩
  · exact ⟨_, hs⟩

/-- Settles O56: the guest's frame holds the script; the host's turn takes one step off it. -/
theorem hostScriptIsTakenInOrder : Obligations.HostScriptIsTakenInOrder := by
  intro s t h
  obtain ⟨-, -, ⟨hheld, hturn⟩ | ⟨hheld, hguest⟩⟩ := step_next h
  · exact ⟨fun hfree => by simp [hheld] at hfree, fun _ => hostTurn_script hturn⟩
  · obtain ⟨-, hscript, -⟩ := (hostSide_eq_iff s t).mp (guestStep_guestFrame hguest).1
    exact ⟨fun _ => hscript, fun hhold => by simp [hheld] at hhold⟩

/-- Settles O49: the configuration is in the frame of both agents. -/
theorem configurationIsFixedForARun : Obligations.ConfigurationIsFixedForARun := by
  intro s t h
  obtain ⟨-, -, ⟨-, hturn⟩ | ⟨-, hguest⟩⟩ := step_next h
  · rw [hostTurn_frame hturn]
  · obtain ⟨hcfg, -⟩ := (hostSide_eq_iff s t).mp (guestStep_guestFrame hguest).1
    exact hcfg

/-! ### The release register -/

/-- The host's turn makes `REL` nonzero by a release of that value only. -/
theorem hostTurn_rel {s t : State} (h : hostTurn s = .next t) (hrel : s.rel = 0) (hnew : t.rel ≠ 0) :
    ∃ rest, s.script = .release t.rel :: rest := by
  rcases hostTurn_next h with ⟨v, rest, hs, -, rfl⟩ | ⟨cs, rest, -, rfl⟩ | ⟨rest, -, rfl⟩
  · exact ⟨rest, hs⟩
  · rw [hostDev, foldl_changeDevice_eq] at hnew
    exact absurd hrel hnew
  · exact absurd hrel hnew

/-- Settles O13: a passing `WAIT` is a channel write, which leaves `REL = 0`; afterwards the guest only keeps or clears
`REL` (`guestStep_guestFrame`), so a nonzero value is the host's release (`hostTurn_rel`). -/
theorem acknowledgementIsNoRelease : Obligations.AcknowledgementIsNoRelease := by
  refine ⟨fun s t h => ?reads, fun s t hrel h hnew => ?release⟩
  case reads =>
    have hwait : execWait s = .next t := h
    rw [execWait_eq] at hwait
    split at hwait
    · cases hwait
    · cases hwait
      rw [ioRead_channel, advance_rel, channelWrite_rel]
  case release =>
    obtain ⟨-, -, ⟨hheld, hturn⟩ | ⟨-, hguest⟩⟩ := step_next h
    · exact ⟨hheld, hostTurn_rel hturn hrel hnew⟩
    · obtain ⟨-, hkept | hcleared⟩ := guestStep_guestFrame hguest
      · exact absurd (hkept.trans hrel) hnew
      · exact absurd hcleared hnew

/-! ### A placed word (notes/assumptions/4.md) -/

theorem placeWord_getElem? (w : Word) (n : Nat) (p : List Word) : (placeWord w n p)[n]? = some w := by
  induction n generalizing p with
  | zero => cases p <;> rfl
  | succ n ih =>
    cases p with
    | nil => exact ih []
    | cons v p => exact ih p

theorem placeWord_length (w : Word) (n : Nat) (p : List Word) : (placeWord w n p).length = max p.length (n + 1) := by
  induction n generalizing p with
  | zero => cases p <;> simp [placeWord]
  | succ n ih =>
    cases p with
    | nil => simp [placeWord, ih]
    | cons v p => simp [placeWord, ih]

/-- The check looks at the program's length only. -/
theorem wf_with_prog {c : Config} {p : List Word} (h : c.wf = true) (hp : p.length ≤ 256) :
    ({ c with prog := p } : Config).wf = true := by
  obtain ⟨hwidth, hfit, hdistinct, hsel, hreset, -⟩ := (wf_iff c).mp h
  exact (wf_iff _).mpr ⟨hwidth, hfit, hdistinct, hsel, hreset, hp⟩

theorem wf_with_placeWord {c : Config} (h : c.wf = true) (w : Word) {n : Nat} (hn : n < 256) :
    ({ c with prog := placeWord w n c.prog } : Config).wf = true := by
  obtain ⟨-, -, -, -, -, hprog⟩ := (wf_iff c).mp h
  exact wf_with_prog h (by rw [placeWord_length]; omega)

/-- A word loaded at `pc` is the one fetched, under a configuration that stays well formed. -/
theorem loadWordAtPc_fetched {s : State} (h : s.cfg.wf = true) (w : Word) :
    fetch (loadWordAtPc w s) = decoded w ∧ (loadWordAtPc w s).cfg.wf = true ∧ (loadWordAtPc w s).run = .running := by
  unfold loadWordAtPc
  split
  · rename_i hpc
    exact ⟨fetch_of_word (placeWord_getElem? w s.pc _), wf_with_placeWord h w hpc, rfl⟩
  · exact ⟨fetch_of_word (placeWord_getElem? w 0 _), wf_with_placeWord h w (by omega), rfl⟩

/-- Settles O11: `withFetchWord` loads the 16 bits of its argument at `pc` (`loadWordAtPc_fetched`). -/
theorem placedWordIsFetchedNext : Obligations.PlacedWordIsFetchedNext := by
  intro s w h
  have hword : BitVec.ofNat 16 (w % 2 ^ 16) = BitVec.ofNat 16 w := BitVec.eq_of_toNat_eq (by simp)
  rw [State.withFetchWord, hword]
  exact loadWordAtPc_fetched h _

/-! ### The mouse data read -/

section MouseData

variable {s : State}

theorem mouseData_x (h : s.devMsel = some s.cfg.mselX) : mouseData s = (s.devMx, s) := if_pos h

theorem mouseData_y (hwf : s.cfg.wf = true) (h : s.devMsel = some s.cfg.mselY) : mouseData s = (s.devMy, s) := by
  have hx : s.devMsel ≠ some s.cfg.mselX := by simpa [h] using (wf_selectors hwf).1.symm
  rw [mouseData, if_neg hx, if_pos h]

theorem mouseData_b (hwf : s.cfg.wf = true) (h : s.devMsel = some s.cfg.mselB) : mouseData s = (s.devMb, s) := by
  obtain ⟨-, hxb, hyb⟩ := wf_selectors hwf
  have hx : s.devMsel ≠ some s.cfg.mselX := by simpa [h] using hxb.symm
  have hy : s.devMsel ≠ some s.cfg.mselY := by simpa [h] using hyb.symm
  rw [mouseData, if_neg hx, if_neg hy, if_pos h]

theorem mouseData_free (hx : s.devMsel ≠ some s.cfg.mselX) (hy : s.devMsel ≠ some s.cfg.mselY)
    (hb : s.devMsel ≠ some s.cfg.mselB) :
    mouseData s = (Config.freeByte s.draws, { s with draws := s.draws + 1 }) := by
  rw [mouseData, if_neg hx, if_neg hy, if_neg hb]

end MouseData

/-- Settles O41: the read decodes to the mouse register (`ioRead_mouse`), and the latch selects one of the four arms,
since the selectors are distinct. -/
theorem mouseDataFollowsTheLatch : Obligations.MouseDataFollowsTheLatch := by
  rintro s _ hwf rfl
  rw [ioRead_mouse hwf]
  refine ⟨fun hx => ?x, fun hy => ?y, fun hb => ?b, fun hx hy hb => ?free⟩
  case x => rw [mouseData_x hx]; rfl
  case y => rw [mouseData_y hwf hy]; rfl
  case b => rw [mouseData_b hwf hb]; rfl
  case free => rw [mouseData_free hx hy hb]; rfl

end Sys2Proof.Machine

/-! PROOF. 42_keyboard R77, 44_mouse R83, R92 to R98: the frame in terms of the matrix lines, the deltas after a second
sample, and what `PSTEP` does with the positions. -/

namespace Sys2Proof.Machine

/-! ### The keyboard frame -/

/-- The correction keeps the matrix lines and forces the rest (42_keyboard R77). -/
theorem maskRow_lines : ∀ raw : Byte, maskRow raw &&& 0xE0 = 0xE0 ∧ maskRow raw &&& 0x1F = raw &&& 0x1F := by decide

/-- The corrected byte is made of the matrix lines alone. -/
theorem maskRow_of_lines : ∀ raw : Byte, maskRow raw = (raw &&& 0x1F) ||| 0xE0 := by decide

theorem exec_ksamp_kf {s u : State} (hwf : s.cfg.wf = true) (h : exec .ksamp s = .next u) :
    u.kf = Vector.ofFn fun i : Fin 8 => some (maskRow s.devKb[i]) := by
  cases (execKsamp_eq hwf).symm.trans h
  rfl

/-- Settles O22: every row is the corrected byte of its device register, which depends on the matrix lines alone. -/
theorem frameIsAFunctionOfTheMatrixLines : Obligations.FrameIsAFunctionOfTheMatrixLines := by
  refine ⟨fun s t u v hs ht hlines hu hv => ?same, fun s u hs hu i => ?row⟩
  case same =>
    rw [exec_ksamp_kf hs hu, exec_ksamp_kf ht hv]
    refine congrArg Vector.ofFn (funext fun i => congrArg some ?_)
    rw [maskRow_of_lines, hlines i, ← maskRow_of_lines]
  case row =>
    refine ⟨maskRow s.devKb[i], ?_, maskRow_lines _⟩
    rw [exec_ksamp_kf hs hu]
    exact Vector.getElem_ofFn i.isLt

/-! ### Two samples in a row -/

theorem signedDelta_self (b : Byte) : signedDelta b b = 0 := by
  rw [signedDelta_eq, BitVec.sub_self, BitVec.toInt_zero]

theorem wheelDelta_self (b : Byte) : wheelDelta b b = 0 := by
  rw [wheelDelta_eq_toInt, BitVec.sub_self, BitVec.toInt_zero]

theorem exec_cfg {i : Instr} {s t : State} (h : exec i s = .next t) : t.cfg = s.cfg :=
  ((hostSide_eq_iff s t).mp (exec_guestFrame h).1).1

/-- Settles O25: the first sample leaves the device registers alone, so the second reads the same bytes and finds them in
the snapshot it keeps; equal registers have the delta 0. -/
theorem msampTwiceGivesZeroDeltas : Obligations.MsampTwiceGivesZeroDeltas := by
  intro s t u hwf ht hu
  cases (execMsamp_eq ((exec_cfg ht).symm ▸ hwf)).symm.trans hu
  cases (execMsamp_eq hwf).symm.trans ht
  exact ⟨(xDiff_some rfl rfl).trans (congrArg _ (signedDelta_self _)),
    (yDiff_some rfl rfl).trans (congrArg _ (signedDelta_self _)),
    (wheelDiff_some rfl rfl).trans (congrArg _ (wheelDelta_self _))⟩

/-! ### `PSTEP` -/

/-- With both snapshots present `PSTEP` moves the positions by the three deltas. -/
theorem execPstep_eq {s : State} {dx dy dw : Int} (hx : xDiff s = .ok dx) (hy : yDiff s = .ok dy)
    (hw : wheelDiff s = .ok dw) : execPstep s = .next (advance (movePositions dx dy dw s)) := by
  rw [execPstep, hx, hy, hw]
  rfl

/-- The new x, modulo 256 (44_mouse R93). -/
theorem movePositions_px (x p : Byte) (dy dw : Int) (s : State) :
    (movePositions (signedDelta x p) dy dw s).px = s.px + (x - p) := by
  change byteOfInt (s.px.toNat + signedDelta x p) = _
  rw [byteOfInt_eq, signedDelta_eq, BitVec.ofInt_add, BitVec.ofInt_toInt, BitVec.ofInt_natCast, BitVec.ofNat_toNat,
    BitVec.setWidth_eq]

/-- The wrap leaves y in the range of a byte, so the byte is the wrapped integer. -/
theorem movePositions_py_toNat (dx dy dw : Int) (s : State) :
    ((movePositions dx dy dw s).py.toNat : Int) = wrapY (s.py.toNat + dy) := by
  obtain ⟨hlow, hhigh⟩ := wrapY_bounds (s.py.toNat + dy)
  exact toNat_ofInt_of_range _ hlow (by omega)

theorem movePositions_py_le (dx dy dw : Int) (s : State) : (movePositions dx dy dw s).py.toNat ≤ 192 := by
  have hy := movePositions_py_toNat dx dy dw s
  have hbounds := wrapY_bounds (s.py.toNat + dy)
  omega

theorem movePositions_wpos_le (dx dy dw : Int) (s : State) : (movePositions dx dy dw s).wpos.toNat ≤ 191 := by
  have hw := movePositions_wpos_toNat dx dy dw s
  omega

/-- Settles O28: the three deltas have values (`execPstep_eq`); x is the sum of bytes, y the wrap, the wheel the clamp. -/
theorem pstepMovesThePositions : Obligations.PstepMovesThePositions := by
  refine ⟨by decide, fun s x px y py b pb hx hpx hy hpy hb hpb => ?_⟩
  refine ⟨_, _, _, execPstep_eq (xDiff_some hx hpx) (yDiff_some hy hpy) (wheelDiff_some hb hpb), ?x, ?y, ?w⟩
  case x => exact movePositions_px x px _ _ s
  case y => rw [movePositions_py_toNat, signedDelta_eq]; rfl
  case w => rw [movePositions_wpos_toNat, wheelDelta_eq_toInt]

/-- Settles O30: a step that moves `pc` has moved the positions (`execPstep_next`), into the ranges of the wrap and of
the clamp. -/
theorem pstepLeavesPositionsInRange : Obligations.PstepLeavesPositionsInRange := by
  intro s t h hmoved
  obtain ⟨dx, dy, dw, -, -, -, rfl⟩ | ⟨f, rfl⟩ := execPstep_next h
  · exact ⟨movePositions_py_le dx dy dw s, movePositions_wpos_le dx dy dw s, rfl, rfl, rfl⟩
  · exact absurd (raise_pc f s) hmoved

/-- The first register without a value, in the order of the list (60_exceptions R132). -/
def firstUnwritten (s : State) (rs : List Reg) : Option Reg := rs.find? fun q => regHolds s q == none

/-- A difference at the head of the order: it faults at the first register without a value, or it has a value and that
register is further on. -/
theorem registerDelta_firstUnwritten (delta : Byte → Byte → Int) {s : State} {cur prev r : Reg} {rs : List Reg}
    (h : firstUnwritten s (cur :: prev :: rs) = some r) :
    registerDelta delta s cur prev = .error (.unwrittenRegister r)
      ∨ (∃ d, registerDelta delta s cur prev = .ok d) ∧ firstUnwritten s rs = some r := by
  obtain ⟨hnamesCur, hnamesPrev⟩ := registerDelta_names delta s cur prev
  by_cases hcur : regHolds s cur = none
  · obtain rfl : cur = r := by simpa [firstUnwritten, hcur] using h
    exact .inl (hnamesCur hcur)
  · by_cases hprev : regHolds s prev = none
    · obtain rfl : prev = r := by simpa [firstUnwritten, hcur, hprev] using h
      exact .inl (hnamesPrev hcur hprev)
    · exact .inr ⟨registerDelta_written delta hcur hprev, by simpa [firstUnwritten, hcur, hprev] using h⟩

/-- Settles O29: the three differences are computed in the order of the list, and the first that has no value faults at
the first register of its pair without one. -/
theorem pstepReportsTheFirstUnwritten : Obligations.PstepReportsTheFirstUnwritten := by
  intro s r h
  change execPstep s = .next (raise (.unwrittenRegister r) s)
  rw [execPstep, xDiff_eq_registerDelta, yDiff_eq_registerDelta, wheelDiff_eq_registerDelta]
  obtain hx | ⟨⟨dx, hx⟩, h⟩ := registerDelta_firstUnwritten signedDelta h
  · rw [hx]; rfl
  obtain hy | ⟨⟨dy, hy⟩, h⟩ := registerDelta_firstUnwritten signedDelta h
  · rw [hx, hy]; rfl
  obtain hw | ⟨-, h⟩ := registerDelta_firstUnwritten wheelDelta h
  · rw [hx, hy, hw]; rfl
  · cases h

end Sys2Proof.Machine

/-! PROOF. 45_cursor_renderer R101 to R112, 70_reset_and_hazards R150: the shape, and what one `RENDER` and two in a row
do to the plane. -/

namespace Sys2Proof.Machine

/-! ### The shape -/

/-- The sprite bit of a row and a column in range (30_encoding R63). -/
theorem spriteBit_eq (cfg : Config) (i j : Fin 8) : spriteBit cfg i.val j.val = (cfg.sprite[j]).getLsbD (7 - i.val) := by
  simp [spriteBit]

theorem member_iff_offset (cfg : Config) (a c : Pixel) :
    member cfg a c = true ↔ (0 ≤ c.x - a.x ∧ c.x - a.x ≤ 7 ∧ 0 ≤ c.y - a.y ∧ c.y - a.y ≤ 7)
      ∧ spriteBit cfg (c.x - a.x).toNat (c.y - a.y).toNat = true := by
  simp only [member, Bool.or_eq_true, decide_eq_true_eq]
  split
  · exact iff_of_false Bool.false_ne_true fun ⟨hbounds, _⟩ => by omega
  · rename_i hin
    exact (and_iff_right (by omega)).symm

/-- Settles O31: the offsets of a member are a column and a row; the rest is the sprite bit. -/
theorem membershipIsBoundsAndSpriteBit : Obligations.MembershipIsBoundsAndSpriteBit := by
  intro cfg a c
  rw [member_iff_offset]
  constructor
  · rintro ⟨⟨hx0, hx7, hy0, hy7⟩, hbit⟩
    refine ⟨⟨(c.x - a.x).toNat, by omega⟩, ⟨(c.y - a.y).toNat, by omega⟩, ?_, ?_, ?_⟩
    · simp only; omega
    · simp only; omega
    · rw [← spriteBit_eq]; exact hbit
  · rintro ⟨i, j, hx, hy, hbit⟩
    have hi : (c.x - a.x).toNat = i.val := by omega
    have hj : (c.y - a.y).toNat = j.val := by omega
    rw [hi, hj, spriteBit_eq]
    exact ⟨by omega, hbit⟩

/-! ### What a `RENDER` can do -/

/-- Everything `RENDER` can do: the blit between the two anchors, or the fault of a coordinate without a value. -/
theorem execRender_next {s t : State} (h : execRender s = .next t) :
    (∃ ox oy, s.ppx = some ox ∧ s.ppy = some oy ∧ t = advance (blit (anchor ox oy) (anchor s.px s.py) s))
      ∨ ∃ q, regHolds s q = none ∧ (s.ppx = none ∨ s.ppy = none) ∧ t = raise (.unwrittenRegister q) s := by
  obtain hx | ⟨ox, hx⟩ := Option.eq_none_or_eq_some s.ppx
  · exact .inr ⟨.ppx, hx, .inl hx, Host.Outcome.next.inj (h.symm.trans (execRender_ppx_none hx))⟩
  obtain hy | ⟨oy, hy⟩ := Option.eq_none_or_eq_some s.ppy
  · exact .inr ⟨.ppy, hy, .inr hy, Host.Outcome.next.inj (h.symm.trans (execRender_ppy_none hx hy))⟩
  · exact .inl ⟨ox, oy, hx, hy, Host.Outcome.next.inj (h.symm.trans (execRender_eq hx hy))⟩

/-- Settles O55: the two arms of the fault, `execRender_ppx_none` and `execRender_ppy_none`. -/
theorem renderNamesPpxFirst : Obligations.RenderNamesPpxFirst :=
  ⟨fun _ => execRender_ppx_none, fun _ _ => execRender_ppy_none⟩

/-! ### The calls -/

theorem footprint_length (a : Pixel) : (footprint a).length = 64 := rfl

theorem clearedCells_length_le (cfg : Config) (p n : Pixel) : (clearedCells cfg p n).length ≤ 64 :=
  (List.length_filter_le _ _).trans (footprint_length p).le

theorem setCells_length_le (cfg : Config) (n : Pixel) : (setCells cfg n).length ≤ 64 :=
  (List.length_filter_le _ _).trans (footprint_length n).le

theorem blit_ev (p n : Pixel) (s : State) :
    (blit p n s).ev = s.ev ++ (clearedCells s.cfg p n).map (fun c => .draw (.clearPixel c))
      ++ (setCells s.cfg n).map (fun c => .draw (.setPixel c)) := by
  rw [blit_eq]

/-- Settles O33: the calls of a blit are cells of the two footprints, of 64 cells each; a fault makes none. -/
theorem renderIssuesAtMost128Calls : Obligations.RenderIssuesAtMost128Calls := by
  intro s t h
  obtain ⟨ox, oy, -, -, rfl⟩ | ⟨q, -, -, rfl⟩ := execRender_next h
  · exact ⟨_, _, clearedCells_length_le s.cfg (anchor ox oy) (anchor s.px s.py), setCells_length_le s.cfg _,
      blit_ev _ _ s⟩
  · exact ⟨[], [], by simp, by simp, by simp⟩

/-! ### Equal positions, and a second `RENDER` -/

theorem clearedCells_self (cfg : Config) (p : Pixel) : clearedCells cfg p p = [] := by
  simp [clearedCells]

/-- Settles O34: between equal anchors nothing is to be cleared. -/
theorem renderAtEqualPositionsClearsNothing : Obligations.RenderAtEqualPositionsClearsNothing := by
  intro s t hx hy h
  cases (execRender_eq hx hy).symm.trans h
  refine ⟨fun c => ?plane, setCells s.cfg (anchor s.px s.py), ?events⟩
  case plane =>
    rw [advance_pix, pixLit_blit, Bool.and_not_self, Bool.not_false, Bool.and_true]
    rfl
  case events => rw [advance_ev, blit_ev, clearedCells_self, List.map_nil, List.append_nil]

@[simp] theorem blit_cfg (p n : Pixel) (s : State) : (blit p n s).cfg = s.cfg := by rw [blit_eq]
@[simp] theorem blit_px (p n : Pixel) (s : State) : (blit p n s).px = s.px := by rw [blit_eq]
@[simp] theorem blit_py (p n : Pixel) (s : State) : (blit p n s).py = s.py := by rw [blit_eq]
@[simp] theorem blit_ppx (p n : Pixel) (s : State) : (blit p n s).ppx = s.ppx := by rw [blit_eq]
@[simp] theorem blit_ppy (p n : Pixel) (s : State) : (blit p n s).ppy = s.ppy := by rw [blit_eq]

/-- A blit of two shapes over a plane they have already been drawn on changes no pixel. -/
theorem pixLit_blit_again {p n : Pixel} {s t : State} (hcfg : t.cfg = s.cfg) (hpix : t.pix = (blit p n s).pix)
    (c : Pixel) : pixLit (blit p n t).pix c = pixLit t.pix c := by
  rw [pixLit_blit, hpix, pixLit_blit, hcfg]
  cases member s.cfg p c <;> cases member s.cfg n c <;> simp

/-- A second blit leaves a canonical plane as it is: canonical planes with the same pixels are equal. -/
theorem blit_again_pix {p n : Pixel} {s t : State} (hwf : s.pix.wf) (hcfg : t.cfg = s.cfg)
    (hpix : t.pix = (blit p n s).pix) : (blit p n t).pix = t.pix := by
  have htwf : t.pix.wf := hpix ▸ blit_keeps_wf p n s hwf
  exact wf_ext (blit_keeps_wf p n t htwf) htwf (pixLit_blit_again hcfg hpix)

/-- Settles O35: a blit writes no position, so the second is between the same anchors (`blit_again_pix`). A fault leaves
the plane. -/
theorem secondRenderLeavesThePlane : Obligations.SecondRenderLeavesThePlane := by
  intro s t u hwf _ ht hu
  obtain ⟨ox, oy, hx, hy, rfl⟩ | ⟨q, -, -, rfl⟩ := execRender_next hu
  case inr => rfl
  obtain ⟨px, py, hpx, hpy, rfl⟩ | ⟨q, -, hnone, rfl⟩ := execRender_next ht
  case inr => rcases hnone with hnone | hnone <;> simp [hnone] at hx hy
  obtain rfl : px = ox := by simpa [hpx] using hx
  obtain rfl : py = oy := by simpa [hpy] using hy
  simp only [advance_px, advance_py, blit_px, blit_py]
  exact blit_again_pix hwf (blit_cfg _ _ s) rfl

end Sys2Proof.Machine

/-! PROOF. What a command can do, said once for all twelve: it completes with an effect of its own kind (`Completion`),
or it enters a fault (`FaultEntry`). The ownership, the fault and the history statements are read off the two. -/

namespace Sys2Proof

/-- The commands that write the channel (40_sync_channel, 41_hex_encoder). -/
def Instr.usesChannel : Instr → Bool
  | .wait | .emitc _ | .emithi _ | .emith _ => true
  | _ => false

/-- The commands that use a register which may hold no value (60_exceptions R132). -/
def Instr.UsesRegister (i : Instr) : Prop :=
  (∃ sel, i = .emith sel) ∨ i = .pstep ∨ i = .render ∨ (∃ k, i = .pbtn k) ∨ i = .pscr

end Sys2Proof

namespace Sys2Proof.Machine

/-! ### The two ways a command ends -/

/-- The states a command can complete in, with all that it leaves unchanged. Only a channel write records `Data`
events. -/
inductive Completion (s : State) : Instr → State → Prop where
  | channel (i : Instr) (tx : Option Byte) (e : List Event) (h : i.usesChannel = true) :
    Completion s i { s with rel := 0, tx := tx, out := s.out ++ dataBytes e, ev := s.ev ++ e, pc := s.pc + 1 }
  | ksamp (e : List Event) (he : dataBytes e = []) :
    Completion s .ksamp { s with
      kf := Vector.ofFn fun i : Fin 8 => some (maskRow s.devKb[i]), ev := s.ev ++ e, pc := s.pc + 1 }
  | jsamp (v : Option Byte) (e : List Event) (he : dataBytes e = []) :
    Completion s .jsamp { s with joy := v, ev := s.ev ++ e, pc := s.pc + 1 }
  | msamp (mx my mb pmx pmy pmb msel : Option Byte) (e : List Event) (he : dataBytes e = []) :
    Completion s .msamp { s with
      mx := mx, my := my, mb := mb, pmx := pmx, pmy := pmy, pmb := pmb, devMsel := msel, ev := s.ev ++ e, pc := s.pc + 1 }
  | pstep (dx dy dw : Int) : Completion s .pstep (advance (movePositions dx dy dw s))
  | render (q : PixelPlane) (e : List Event) (hq : s.pix.wf → q.wf) (he : dataBytes e = []) :
    Completion s .render { s with pix := q, ev := s.ev ++ e, pc := s.pc + 1 }
  | pbtn (k : Fin 4) (pressed : Bool) : Completion s (.pbtn k) (advance (buttonBox k pressed s))
  | pscr (a b : Int) : Completion s .pscr (advance (scrollBox a b s))
  | jmp (a : Byte) (h : a.toNat < s.cfg.progLen) : Completion s (.jmp a) { s with pc := a.toNat }

/-- The faults a command can enter (60_exceptions R131, the table). -/
inductive FaultEntry (s : State) : Instr → FaultReason → Prop where
  | unwritten (i : Instr) (q : Reg) (hi : i.UsesRegister) (hq : regHolds s q = none) :
    FaultEntry s i (.unwrittenRegister q)
  | badTarget (a : Byte) (h : s.cfg.progLen ≤ a.toNat) : FaultEntry s (.jmp a) (.badTarget a)

/-! ### The channel -/

/-- Events that are no `Data` events, such as device reads and drawing calls, add no bytes. -/
theorem dataBytes_map_of_silent {α : Type} {event : α → Event} (h : ∀ a, dataByte (event a) = none) (l : List α) :
    dataBytes (l.map event) = [] := by
  simp [dataBytes, List.filterMap_map, h]

theorem dataBytes_append (e f : List Event) : dataBytes (e ++ f) = dataBytes e ++ dataBytes f := List.filterMap_append

/-- A channel write records one event, and transmits the byte of a `Data` event (20_memory R40). -/
theorem channelWrite_grows (b : Byte) (s : State) : ∃ e, channelWrite b s =
    { s with rel := 0, tx := some b, out := s.out ++ dataBytes e, ev := s.ev ++ e } := by
  by_cases hrel : s.rel = 0
  · refine ⟨[.data b], ?_⟩
    rw [channelWrite_data b hrel, ← hrel]
    rfl
  · refine ⟨[.ack b], ?_⟩
    rw [channelWrite_ack b hrel, show dataBytes [.ack b] = [] from rfl, List.append_nil]

theorem channelWrite_completion {i : Instr} (hi : i.usesChannel = true) (b : Byte) (s : State) :
    Completion s i (advance (channelWrite b s)) := by
  obtain ⟨e, he⟩ := channelWrite_grows b s
  rw [he]
  exact .channel i (some b) e hi

theorem channelWrites_completion {i : Instr} (hi : i.usesChannel = true) (b c : Byte) (s : State) :
    Completion s i (advance (channelWrite c (channelWrite b s))) := by
  obtain ⟨e, he⟩ := channelWrite_grows b s
  obtain ⟨f, hf⟩ := channelWrite_grows c (channelWrite b s)
  rw [hf, he]
  simp only [List.append_assoc, ← dataBytes_append]
  exact .channel i (some c) (e ++ f) hi

theorem exec_emithi_eq (b : Byte) (s : State) : exec (.emithi b) s =
    .next (advance (channelWrite (hexChar (lowNibble b)) (channelWrite (hexChar (highNibble b)) s))) :=
  exec_emithi_of_transmitHex (transmitHex_eq b s)

/-! ### Faults of the operand reads -/

theorem bind_eq_error {ε α β : Type} {x : Except ε α} {f : α → Except ε β} {e : ε} (h : x >>= f = .error e) :
    x = .error e ∨ ∃ a, x = .ok a ∧ f a = .error e := by
  cases x with
  | error e' => cases h; exact .inl rfl
  | ok a => exact .inr ⟨a, rfl, h⟩

theorem registerDelta_fault {delta : Byte → Byte → Int} {s : State} {cur prev : Reg} {f : FaultReason}
    (h : registerDelta delta s cur prev = .error f) : ∃ q, regHolds s q = none ∧ f = .unwrittenRegister q := by
  obtain hcur | ⟨c, -, h⟩ := bind_eq_error h
  · obtain ⟨rfl, hnone⟩ := useReg_error hcur
    exact ⟨cur, hnone, rfl⟩
  obtain hprev | ⟨p, -, h⟩ := bind_eq_error h
  · obtain ⟨rfl, hnone⟩ := useReg_error hprev
    exact ⟨prev, hnone, rfl⟩
  · cases h

theorem map_registerDelta_fault {delta : Byte → Byte → Int} {s : State} {cur prev : Reg} {f : FaultReason}
    (h : byteOfInt <$> registerDelta delta s cur prev = .error f) :
    ∃ q, regHolds s q = none ∧ f = .unwrittenRegister q := by
  cases hdelta : registerDelta delta s cur prev with
  | ok d => rw [hdelta] at h; cases h
  | error g =>
    rw [hdelta] at h
    cases h
    exact registerDelta_fault hdelta

theorem readSelector_fault {s : State} {sel : RegSel} {f : FaultReason} (h : readSelector s sel = .error f) :
    ∃ q, regHolds s q = none ∧ f = .unwrittenRegister q := by
  cases sel with
  | reg r =>
    obtain ⟨rfl, hnone⟩ := useReg_error h
    exact ⟨r, hnone, rfl⟩
  | dx => exact map_registerDelta_fault (delta := signedDelta) (cur := .mx) (prev := .pmx) h
  | dy => exact map_registerDelta_fault (delta := signedDelta) (cur := .my) (prev := .pmy) h
  | dw => exact map_registerDelta_fault (delta := wheelDelta) (cur := .mb) (prev := .pmb) h

/-! ### The commands -/

/-- A command that takes a state to the next one completes, or enters a fault at that state. -/
def Ends (s : State) (i : Instr) (t : State) : Prop := Completion s i t ∨ ∃ r, FaultEntry s i r ∧ t = raise r s

section Commands

variable {s t : State}

theorem ends_of_unwritten {i : Instr} {f : FaultReason} (hi : i.UsesRegister)
    (hf : ∃ q, regHolds s q = none ∧ f = .unwrittenRegister q) : Ends s i (raise f s) := by
  obtain ⟨q, hq, rfl⟩ := hf
  exact .inr ⟨_, .unwritten i q hi hq, rfl⟩

theorem execWait_ends (h : execWait s = .next t) : Ends s .wait t := by
  rw [execWait_eq] at h
  split at h
  · cases h
  · cases h; exact .inl (channelWrite_completion rfl ackByte s)

theorem execEmitc_ends {c : Byte} (h : execEmitc c s = .next t) : Ends s (.emitc c) t := by
  cases (execEmitc_eq c s).symm.trans h
  exact .inl (channelWrite_completion rfl c s)

theorem exec_emithi_ends {b : Byte} (h : exec (.emithi b) s = .next t) : Ends s (.emithi b) t := by
  cases (exec_emithi_eq b s).symm.trans h
  exact .inl (channelWrites_completion rfl _ _ s)

theorem exec_emith_ends {sel : RegSel} (h : exec (.emith sel) s = .next t) : Ends s (.emith sel) t := by
  cases hread : readSelector s sel with
  | ok b =>
    cases (exec_emithi_eq b s).symm.trans ((exec_emith_of_read hread).symm.trans h)
    exact .inl (channelWrites_completion rfl _ _ s)
  | error f =>
    cases (exec_emith_of_fault hread).symm.trans h
    exact ends_of_unwritten (.inl ⟨sel, rfl⟩) (readSelector_fault hread)

theorem execKsamp_ends (hwf : s.cfg.wf = true) (h : execKsamp s = .next t) : Ends s .ksamp t := by
  cases (execKsamp_eq hwf).symm.trans h
  exact .inl (.ksamp _ (dataBytes_map_of_silent (fun _ => rfl) _))

theorem execJsamp_ends (hwf : s.cfg.wf = true) (h : execJsamp s = .next t) : Ends s .jsamp t := by
  cases (execJsamp_eq hwf).symm.trans h
  exact .inl (.jsamp _ _ rfl)

theorem execMsamp_ends (hwf : s.cfg.wf = true) (h : execMsamp s = .next t) : Ends s .msamp t := by
  cases (execMsamp_eq hwf).symm.trans h
  exact .inl (.msamp _ _ _ _ _ _ _ _ rfl)

theorem execPstep_ends (h : execPstep s = .next t) : Ends s .pstep t := by
  have hi : Instr.pstep.UsesRegister := .inr (.inl rfl)
  obtain hok | ⟨f, herr, rfl⟩ := complete_next h
  · obtain ⟨dx, -, hok⟩ := bind_eq_ok hok
    obtain ⟨dy, -, hok⟩ := bind_eq_ok hok
    obtain ⟨dw, -, hok⟩ := bind_eq_ok hok
    cases hok
    exact .inl (.pstep dx dy dw)
  obtain hx | ⟨dx, -, herr⟩ := bind_eq_error herr
  · exact ends_of_unwritten hi (registerDelta_fault hx)
  obtain hy | ⟨dy, -, herr⟩ := bind_eq_error herr
  · exact ends_of_unwritten hi (registerDelta_fault hy)
  obtain hw | ⟨dw, -, herr⟩ := bind_eq_error herr
  · exact ends_of_unwritten hi (registerDelta_fault hw)
  · cases herr

theorem blit_completion (p n : Pixel) (s : State) : Completion s .render (advance (blit p n s)) := by
  have hblit : advance (blit p n s) = { s with
      pix := (blit p n s).pix
      ev := s.ev ++ ((clearedCells s.cfg p n).map (fun c => .draw (.clearPixel c))
        ++ (setCells s.cfg n).map (fun c => .draw (.setPixel c)))
      pc := s.pc + 1 } := by
    rw [blit_eq, List.append_assoc]
    rfl
  rw [hblit]
  refine .render _ _ (blit_keeps_wf p n s) ?_
  rw [dataBytes_append, dataBytes_map_of_silent (fun _ => rfl), dataBytes_map_of_silent (fun _ => rfl), List.append_nil]

theorem execRender_ends (h : execRender s = .next t) : Ends s .render t := by
  obtain ⟨ox, oy, -, -, rfl⟩ | ⟨q, hq, -, rfl⟩ := execRender_next h
  · exact .inl (blit_completion _ _ s)
  · exact ends_of_unwritten (.inr (.inr (.inl rfl))) ⟨q, hq, rfl⟩

theorem execPbtn_ends {k : Fin 4} (h : execPbtn k s = .next t) : Ends s (.pbtn k) t := by
  obtain hmb | ⟨b, hmb⟩ := Option.eq_none_or_eq_some s.mb
  · cases (execPbtn_mb_none k hmb).symm.trans h
    exact ends_of_unwritten (.inr (.inr (.inr (.inl ⟨k, rfl⟩)))) ⟨.mb, hmb, rfl⟩
  · cases (execPbtn_eq k hmb).symm.trans h
    exact .inl (.pbtn k _)

theorem execPscr_ends (h : execPscr s = .next t) : Ends s .pscr t := by
  obtain hpwpos | ⟨a, hpwpos⟩ := Option.eq_none_or_eq_some s.pwpos
  · cases (execPscr_pwpos_none hpwpos).symm.trans h
    exact ends_of_unwritten (.inr (.inr (.inr (.inr rfl)))) ⟨.pwpos, hpwpos, rfl⟩
  · cases (execPscr_eq hpwpos).symm.trans h
    exact .inl (.pscr _ _)

theorem execJmp_ends {a : Byte} (h : execJmp a s = .next t) : Ends s (.jmp a) t := by
  by_cases ha : a.toNat < s.cfg.progLen
  · cases (execJmp_taken ha).symm.trans h
    exact .inl (.jmp a ha)
  · cases (execJmp_badTarget (by omega)).symm.trans h
    exact .inr ⟨_, .badTarget a (by omega), rfl⟩

/-- Everything a command can do under a well-formed configuration. -/
theorem exec_ends {i : Instr} (hwf : s.cfg.wf = true) (h : exec i s = .next t) : Ends s i t := by
  cases i with
  | wait => exact execWait_ends h
  | emitc c => exact execEmitc_ends h
  | emithi b => exact exec_emithi_ends h
  | emith sel => exact exec_emith_ends h
  | ksamp => exact execKsamp_ends hwf h
  | jsamp => exact execJsamp_ends hwf h
  | msamp => exact execMsamp_ends hwf h
  | pstep => exact execPstep_ends h
  | render => exact execRender_ends h
  | pbtn k => exact execPbtn_ends h
  | pscr => exact execPscr_ends h
  | jmp a => exact execJmp_ends h

end Commands

end Sys2Proof.Machine

/-! PROOF. 46_sequencer_loops R115, 60_exceptions R131, 20_memory R36, R44, 10_state R16 to R29: which command writes
what, and what its fault leaves, each read off the two ways a command ends (`exec_ends`). -/

namespace Sys2Proof.Machine

/-! ### The frame of a completion, field by field -/

section Frame

variable {i : Instr} {s t : State}

theorem Completion.pc_eq (h : Completion s i t) (hi : ∀ a, i ≠ .jmp a) : t.pc = s.pc + 1 := by
  cases h with
  | jmp a => exact absurd rfl (hi a)
  | _ => rfl

theorem Completion.run_eq (h : Completion s i t) : t.run = s.run := by cases h <;> rfl

theorem Completion.draws_eq (h : Completion s i t) : t.draws = s.draws := by cases h <;> rfl

theorem Completion.kf_eq (h : Completion s i t) (hi : i ≠ .ksamp) : t.kf = s.kf := by
  cases h with
  | ksamp => exact absurd rfl hi
  | _ => rfl

theorem Completion.joy_eq (h : Completion s i t) (hi : i ≠ .jsamp) : t.joy = s.joy := by
  cases h with
  | jsamp => exact absurd rfl hi
  | _ => rfl

theorem Completion.mouse_eq (h : Completion s i t) (hi : i ≠ .msamp) :
    t.mx = s.mx ∧ t.my = s.my ∧ t.mb = s.mb ∧ t.pmx = s.pmx ∧ t.pmy = s.pmy ∧ t.pmb = s.pmb ∧ t.devMsel = s.devMsel := by
  cases h with
  | msamp => exact absurd rfl hi
  | _ => exact ⟨rfl, rfl, rfl, rfl, rfl, rfl, rfl⟩

theorem Completion.positions_eq (h : Completion s i t) (hi : i ≠ .pstep) :
    t.px = s.px ∧ t.py = s.py ∧ t.ppx = s.ppx ∧ t.ppy = s.ppy ∧ t.wpos = s.wpos ∧ t.pwpos = s.pwpos := by
  cases h with
  | pstep => exact absurd rfl hi
  | _ => exact ⟨rfl, rfl, rfl, rfl, rfl, rfl⟩

theorem Completion.pix_eq (h : Completion s i t) (hi : i ≠ .render) : t.pix = s.pix := by
  cases h with
  | render => exact absurd rfl hi
  | _ => rfl

theorem Completion.btnBox_eq (h : Completion s i t) (hi : ∀ k, i ≠ .pbtn k) : t.btnBox = s.btnBox := by
  cases h with
  | pbtn k => exact absurd rfl (hi k)
  | _ => rfl

theorem Completion.btnBox_other {k l : Fin 4} (h : Completion s (.pbtn k) t) (hl : l ≠ k) :
    t.btnBox[l] = s.btnBox[l] := by
  cases h with
  | channel _ _ _ huse => cases huse
  | pbtn => exact Vector.getElem_set_ne k.isLt l.isLt fun e => hl (Fin.ext e.symm)

theorem Completion.scrollBox_eq (h : Completion s i t) (hi : i ≠ .pscr) : t.scrollBox = s.scrollBox := by
  cases h with
  | pscr => exact absurd rfl hi
  | _ => rfl

theorem Completion.channel_eq (h : Completion s i t) (hi : i.usesChannel = false) :
    t.rel = s.rel ∧ t.tx = s.tx ∧ t.out = s.out := by
  cases h with
  | channel _ _ _ huse => simp [hi] at huse
  | _ => exact ⟨rfl, rfl, rfl⟩

theorem usesChannel_eq_false (hwait : i ≠ .wait) (hemitc : ∀ c, i ≠ .emitc c) (hemithi : ∀ b, i ≠ .emithi b)
    (hemith : ∀ r, i ≠ .emith r) : i.usesChannel = false := by
  cases i with
  | wait => exact absurd rfl hwait
  | emitc c => exact absurd rfl (hemitc c)
  | emithi b => exact absurd rfl (hemithi b)
  | emith r => exact absurd rfl (hemith r)
  | _ => rfl

end Frame

/-! ### Completion and fault -/

/-- Settles O39: a faulted state does not run, and a completion but `JMP`'s advances `pc` by one. -/
theorem pcAdvancesByOne : Obligations.PcAdvancesByOne := by
  intro i s t hwf hi _ h hrun
  obtain hdone | ⟨r, -, rfl⟩ := exec_ends hwf h
  · exact hdone.pc_eq hi
  · cases hrun

/-- Settles O43: no completion counts a draw; the reads of `MSAMP` are selected ones (`execMsamp_eq`). -/
theorem noCommandDrawsAFreeByte : Obligations.NoCommandDrawsAFreeByte := by
  intro i s t hwf h
  obtain hdone | ⟨r, -, rfl⟩ := exec_ends hwf h
  · exact hdone.draws_eq
  · rfl

/-- A running state is taken to a faulted one by fault entry only. -/
theorem exec_faulted {i : Instr} {s t : State} {r : FaultReason} (hwf : s.cfg.wf = true) (hrun : s.run = .running)
    (h : exec i s = .next t) (hfault : t.run = .faulted r) : FaultEntry s i r ∧ t = raise r s := by
  obtain hdone | ⟨r', hentry, rfl⟩ := exec_ends hwf h
  · have hrunning : t.run = .running := hdone.run_eq.trans hrun
    cases hrunning.symm.trans hfault
  · cases hfault
    exact ⟨hentry, rfl⟩

/-- Settles O44: `exec_faulted`. -/
theorem faultingCommandChangesOnlyRun : Obligations.FaultingCommandChangesOnlyRun := by
  intro i s t r hwf hrun h hfault
  exact (exec_faulted hwf hrun h hfault).2

/-- Settles O45: the two kinds of fault entry are the two clauses. -/
theorem faultsComeFromTheListedCommands : Obligations.FaultsComeFromTheListedCommands := by
  intro i s t r hwf hrun h hfault
  obtain ⟨hentry, -⟩ := exec_faulted hwf hrun h hfault
  cases hentry with
  | unwritten _ q hi hq => exact .inr ⟨q, rfl, hq, hi⟩
  | badTarget a ha => exact .inl ⟨a, rfl, rfl, ha⟩

/-! ### Ownership -/

/-- Settles O46: the frames of a completion; a fault entry changes `RUN` only. -/
theorem samplerRegistersHaveOneWriter : Obligations.SamplerRegistersHaveOneWriter := by
  intro i s t hwf h
  obtain hdone | ⟨r, -, rfl⟩ := exec_ends hwf h
  · exact ⟨hdone.kf_eq, hdone.joy_eq, hdone.mouse_eq, hdone.positions_eq⟩
  · exact ⟨fun _ => rfl, fun _ => rfl, fun _ => ⟨rfl, rfl, rfl, rfl, rfl, rfl, rfl⟩,
      fun _ => ⟨rfl, rfl, rfl, rfl, rfl, rfl⟩⟩

/-- Settles O47: the frames of a completion; a fault entry changes `RUN` only. -/
theorem screenAndChannelHaveTheirWriters : Obligations.ScreenAndChannelHaveTheirWriters := by
  intro i s t hwf h
  obtain hdone | ⟨r, -, rfl⟩ := exec_ends hwf h
  · refine ⟨fun hi c => by rw [hdone.pix_eq hi], hdone.btnBox_eq, fun k l hi hl => ?box, hdone.scrollBox_eq,
      fun hwait hemitc hemithi hemith => hdone.channel_eq (usesChannel_eq_false hwait hemitc hemithi hemith)⟩
    case box =>
      subst hi
      exact hdone.btnBox_other hl
  · exact ⟨fun _ _ => rfl, fun _ => rfl, fun _ _ _ _ => rfl, fun _ => rfl, fun _ _ _ _ => ⟨rfl, rfl, rfl⟩⟩

end Sys2Proof.Machine

/-! PROOF. 10_state R27, R35: the histories grow together, and every step keeps the invariants, by the two ways a command
ends (`exec_ends`) and the host's turn. -/

namespace Sys2Proof.Machine

/-! ### The histories -/

/-- From `s` to `t` the event history gained some events, and `OUT` their `Data` bytes (10_state R27). -/
def HistoryGrows (s t : State) : Prop := ∃ e, t.ev = s.ev ++ e ∧ t.out = s.out ++ dataBytes e

theorem HistoryGrows.silent {s t : State} {e : List Event} (he : dataBytes e = []) (hev : t.ev = s.ev ++ e)
    (hout : t.out = s.out) : HistoryGrows s t :=
  ⟨e, hev, by rw [hout, he, List.append_nil]⟩

/-- Nothing was recorded. -/
theorem HistoryGrows.of_eq {s t : State} (hev : t.ev = s.ev) (hout : t.out = s.out) : HistoryGrows s t :=
  .silent (e := []) rfl (by rw [hev, List.append_nil]) hout

theorem Completion.historyGrows {i : Instr} {s t : State} (h : Completion s i t) : HistoryGrows s t := by
  cases h with
  | channel _ _ e => exact ⟨e, rfl, rfl⟩
  | ksamp e he => exact .silent he rfl rfl
  | jsamp _ e he => exact .silent he rfl rfl
  | msamp _ _ _ _ _ _ _ e he => exact .silent he rfl rfl
  | pstep => exact .of_eq rfl rfl
  | render _ e _ he => exact .silent he rfl rfl
  | pbtn k pressed => exact .silent (e := [.draw (.buttonBox k pressed)]) rfl rfl rfl
  | pscr a b => exact .silent (e := [.draw (.scrollBox a b)]) rfl rfl rfl
  | jmp => exact .of_eq rfl rfl

theorem guestStep_historyGrows {s t : State} (hwf : s.cfg.wf = true) (h : guestStep s = .next t) : HistoryGrows s t := by
  rcases guestStep_next h with ⟨-, rfl⟩ | ⟨w, -, rfl⟩ | ⟨i, -, hexec⟩
  · exact .of_eq rfl rfl
  · exact .of_eq rfl rfl
  · obtain hdone | ⟨r, -, rfl⟩ := exec_ends hwf hexec
    · exact hdone.historyGrows
    · exact .of_eq rfl rfl

theorem hostTurn_historyGrows {s t : State} (h : hostTurn s = .next t) : HistoryGrows s t := by
  rcases hostTurn_next h with ⟨v, rest, -, -, rfl⟩ | ⟨cs, rest, -, rfl⟩ | ⟨rest, -, rfl⟩
  · exact .silent (e := [.release v]) rfl rfl rfl
  · rw [hostDev, foldl_changeDevice_eq]
    exact .silent (e := [.hostDev cs]) rfl rfl rfl
  · exact .of_eq rfl rfl

theorem step_historyGrows {s t : State} (h : step s = .next t) : HistoryGrows s t := by
  obtain ⟨hwf, -, ⟨-, hturn⟩ | ⟨-, hguest⟩⟩ := step_next h
  · exact hostTurn_historyGrows hturn
  · exact guestStep_historyGrows hwf hguest

/-- Settles O50: `step_historyGrows`. -/
theorem historiesOnlyGrow : Obligations.HistoriesOnlyGrow := fun _ _ => step_historyGrows

/-- Histories that grow together stay together. -/
theorem HistoryGrows.out_eq {s t : State} (h : HistoryGrows s t) (hs : s.out = dataBytes s.ev) :
    t.out = dataBytes t.ev := by
  obtain ⟨e, hev, hout⟩ := h
  rw [hev, hout, hs, dataBytes_append]

/-! ### The invariants under a completion -/

/-- The ranges of the positions (10_state R35). -/
def PositionsInRange (s : State) : Prop :=
  s.py.toNat ≤ 192 ∧ (∀ v ∈ s.ppy, v.toNat ≤ 192) ∧ s.wpos.toNat ≤ 191 ∧ ∀ v ∈ s.pwpos, v.toNat ≤ 191

/-- Every row of the frame that holds a value has its forced bits (10_state R16). -/
def FrameForced (s : State) : Prop := ∀ i : Fin 8, ∀ v ∈ s.kf[i], topBitsSet v = true

theorem inv_iff (s : State) : s.Inv ↔
    s.pc ≤ s.cfg.progLen ∧ PositionsInRange s ∧ FrameForced s ∧ s.out = dataBytes s.ev ∧ s.pix.wf := by
  simp only [State.Inv, PositionsInRange, FrameForced, and_assoc]

/-- Below `PROGLEN` the next index is at most `PROGLEN`, and a jump that completes lands below it. -/
theorem Completion.pc_le {i : Instr} {s t : State} (h : Completion s i t) (hpc : s.pc < s.cfg.progLen) :
    t.pc ≤ t.cfg.progLen := by
  cases h with
  | jmp a ha => exact ha.le
  | _ => exact hpc

/-- `PSTEP` wraps and clamps the new positions, and remembers positions that were in range. -/
theorem Completion.positionsInRange {i : Instr} {s t : State} (h : Completion s i t) (hs : PositionsInRange s) :
    PositionsInRange t := by
  cases h with
  | pstep dx dy dw =>
    obtain ⟨hpy, -, hwpos, -⟩ := hs
    refine ⟨movePositions_py_le dx dy dw s, fun v hv => ?_, movePositions_wpos_le dx dy dw s, fun v hv => ?_⟩
    · cases hv; exact hpy
    · cases hv; exact hwpos
  | _ => exact hs

theorem topBitsSet_maskRow : ∀ raw : Byte, topBitsSet (maskRow raw) = true := by decide

theorem Completion.frameForced {i : Instr} {s t : State} (h : Completion s i t) (hs : FrameForced s) :
    FrameForced t := by
  cases h with
  | ksamp =>
    intro j v hv
    have hrow : (Vector.ofFn fun j : Fin 8 => some (maskRow s.devKb[j]))[j] = some (maskRow s.devKb[j]) :=
      Vector.getElem_ofFn j.isLt
    obtain rfl : maskRow s.devKb[j] = v := Option.some.inj (hrow.symm.trans hv)
    exact topBitsSet_maskRow _
  | _ => exact hs

theorem Completion.pix_wf {i : Instr} {s t : State} (h : Completion s i t) (hs : s.pix.wf) : t.pix.wf := by
  cases h with
  | render _ _ hq => exact hq hs
  | _ => exact hs

theorem Completion.inv {i : Instr} {s t : State} (h : Completion s i t) (hpc : s.pc < s.cfg.progLen) (hs : s.Inv) :
    t.Inv := by
  obtain ⟨-, hpos, hframe, hout, hpix⟩ := (inv_iff s).mp hs
  exact (inv_iff t).mpr ⟨h.pc_le hpc, h.positionsInRange hpos, h.frameForced hframe, h.historyGrows.out_eq hout,
    h.pix_wf hpix⟩

/-! ### The invariants under a step -/

/-- `RUN` is in none of the invariants, so the end of the run and a fault entry keep them. -/
theorem inv_of_run {s : State} (r : RunStatus) (hs : s.Inv) : ({ s with run := r } : State).Inv := hs

theorem guestStep_keeps_inv {s t : State} (hwf : s.cfg.wf = true) (hs : s.Inv) (h : guestStep s = .next t) : t.Inv := by
  rcases guestStep_next h with ⟨-, rfl⟩ | ⟨w, -, rfl⟩ | ⟨i, hfetch, hexec⟩
  · exact inv_of_run _ hs
  · exact inv_of_run _ hs
  · obtain hdone | ⟨r, -, rfl⟩ := exec_ends hwf hexec
    · exact hdone.inv (pc_lt_of_fetch_command hfetch) hs
    · exact inv_of_run _ hs

/-- The host writes nothing the invariants speak of but the histories. -/
theorem hostTurn_keeps_inv {s t : State} (hs : s.Inv) (h : hostTurn s = .next t) : t.Inv := by
  obtain ⟨hpc, hpos, hframe, hout, hpix⟩ := (inv_iff s).mp hs
  have hout' : t.out = dataBytes t.ev := (hostTurn_historyGrows h).out_eq hout
  rw [hostTurn_frame h] at hout' ⊢
  exact (inv_iff _).mpr ⟨hpc, hpos, hframe, hout', hpix⟩

/-- Settles O51: a guest step by how the fetched command ends (`Completion.inv`), a host step by its frame. -/
theorem stepKeepsTheInvariants : Obligations.StepKeepsTheInvariants := by
  intro s t hs h
  obtain ⟨hwf, -, ⟨-, hturn⟩ | ⟨-, hguest⟩⟩ := step_next h
  · exact hostTurn_keeps_inv hs hturn
  · exact guestStep_keeps_inv hwf hs hguest

/-! ### The invariants at reset -/

theorem resetWith_inv {c : Config} (hwf : c.wf = true) (kb : Vector Byte 8) (joy mx my mb : Byte) {p : PixelPlane}
    (hp : p.wf) (script : List HostStep) : (State.resetWith c kb joy mx my mb p script).Inv := by
  obtain ⟨-, -, -, -, hreset, -⟩ := (wf_iff c).mp hwf
  obtain ⟨hpy, hwpos⟩ := (resetsInRange_iff c).mp hreset
  have hframe : FrameForced (State.resetWith c kb joy mx my mb p script) := by
    intro i v hv
    rw [resetWith_kf] at hv
    cases hv
  exact (inv_iff _).mpr ⟨Nat.zero_le _, ⟨hpy.trans (by decide), nofun, hwpos, nofun⟩, hframe, rfl, hp⟩

theorem default_wf : Config.default.wf = true := by decide

/-- Settles O52: the check bounds the reset positions, and no other register holds a value; `State.reset` is one of these
states. -/
theorem resetHasTheInvariants : Obligations.ResetHasTheInvariants :=
  ⟨fun _ kb joy mx my mb _ script hwf hp => resetWith_inv hwf kb joy mx my mb hp script, default_wf,
    resetWith_inv default_wf _ _ _ _ _ reset_pix_wf _⟩

end Sys2Proof.Machine
